-- ==== Sys2Proof/Word.lean ====
section
/-!
DEFINITION. The word types of the 6502 family: a byte, a 16-bit word (registers, program counter, offsets
in a bank) and a 24-bit address (spec R9, R70, R71). Values are unsigned everywhere (R9, R10).
-/

namespace Sys2Proof

/-- The addressable unit (R71) and the width of `A`, `B`, `P`, `DBR`, `PBR` (R30). -/
abbrev Byte := BitVec 8

/-- The width of `PC`, `D`, `S` and of the containers of `X` and `Y` (R30). -/
abbrev Word := BitVec 16

/-- A 24-bit address: bank in bits 23:16, offset in bits 15:0 (R70). On the 8-bit processors the bank is 0. -/
abbrev Addr := BitVec 24

end Sys2Proof
end

