-- ==== Sys2Proof/Config.lean ====
section
/-!
DEFINITION. The implementation parameters of spec R7 as plain data, and the decoding context of R108.
The configuration is fixed for a run (R8, R48); the machine's state carries it so that one model serves every
value of every parameter (assumption log 1), and no instruction writes it.
-/

namespace Sys2Proof

/-- The parameter `V` (R7, R8): which of the three processors of the source's "Available on" columns. -/
inductive Variant where
  | m6502
  | m65C02
  | m65816
  deriving DecidableEq, Repr

/-- The processors an opcode is available on (R111): three, two or one availability marks. -/
inductive Avail where
  /-- 6502, 65C02, 65816. -/
  | all
  /-- 65C02, 65816. -/
  | from65C02
  /-- 65816 only. -/
  | only65816
  deriving DecidableEq, Repr

/-- A datum width, 8 or 16 bits (R44, R45). -/
inductive Width where
  | w8
  | w16
  deriving DecidableEq, Repr

/-- The parameter `LDX_INDEX` (R7, R191): the register that indexes opcodes BE and B6. -/
inductive LdxIndex where
  | y
  | x
  deriving DecidableEq, Repr

/-- The parameter `INDEX_WIDTH_FLAG` (R7, R45): the flag that sets the width of LDX, LDY, STX and STY. -/
inductive IndexWidthFlag where
  | x
  | m
  deriving DecidableEq, Repr

/-- The parameter `EMU_DP_CORNERS` (R7, R151). -/
inductive EmuDpCorners where
  | refuse
  | asGiven
  deriving DecidableEq, Repr

/-- The kinds of region a platform's memory map names (R78, R80). -/
inductive RegionKind where
  /-- Plain memory that is read and written. -/
  | ram
  /-- Plain memory that is read and fetched; a write to it has no meaning in the spec (R78). -/
  | rom
  /-- A device register; the spec gives no behaviour (R78). -/
  | device
  /-- An absent address; the spec gives no behaviour (R78). -/
  | absent
  deriving DecidableEq, Repr

/-- One region of the parameter `MEMMAP`: `size` bytes from `base`. -/
structure Region where
  base : Nat
  size : Nat
  kind : RegionKind
  deriving DecidableEq, Repr

/-- The implementation parameters of R7. -/
structure Config where
  /-- `V`. -/
  variant : Variant
  /-- `LDX_INDEX`. -/
  ldxIndex : LdxIndex
  /-- `INDEX_WIDTH_FLAG`. -/
  indexWidthFlag : IndexWidthFlag
  /-- `EMU_STACK_PAGE`. -/
  emuStackPage : Bool
  /-- `EMU_DP_CORNERS`. -/
  emuDpCorners : EmuDpCorners
  /-- `MEMMAP`: the regions that are named; an address in none of them is plain RAM (assumption log 3). -/
  memMap : List Region
  /-- `END_PC`: the offsets at which a run ends (R333). -/
  endPc : List Word
  /-- `INTERRUPTS`: `false` is the only value the spec gives rules for (R303). -/
  interrupts : Bool
  deriving DecidableEq, Repr

/-- Every parameter at the default R7 gives it, for the variant `v`; the open parameters (`MEMMAP`, `END_PC`)
name nothing. -/
def Config.standard (v : Variant) : Config where
  variant := v
  ldxIndex := .y
  indexWidthFlag := .x
  emuStackPage := true
  emuDpCorners := .refuse
  memMap := []
  endPc := []
  interrupts := false

/-- What a decoder must know besides the bytes (R105, R108): the variant, the accumulator width, and the
width of the immediate operand of LDX and LDY. -/
structure Ctx where
  variant : Variant
  wA : Width
  wI : Width
  deriving DecidableEq, Repr

end Sys2Proof
end

