-- ==== Sys2Proof/Syntax.lean ====
section
/-!
DEFINITION. The instructions: one constructor per row of spec/opcode_table.json (R109, R110), in the table's order.
Operands are the assembled unsigned values of R106. The immediate operand `const` is held in 16 bits; it is 8 or
16 bits wide by the widths in force (R105), and `Instr.wf` asks that it fits (assumption log 8).
-/

namespace Sys2Proof

/-- The 62 instructions of the opcode table (R5, R110). -/
inductive Instr where
  -- LDA, Load Accumulator from Memory (R170)
  /-- `LDA #const`, opcode A9, Immediate (R172). -/
  | ldaImm (const : Word)
  /-- `LDA addr`, opcode AD, Absolute (R173). -/
  | ldaAbs (addr : Word)
  /-- `LDA long`, opcode AF, Absolute Long (R174). -/
  | ldaLong (long : Addr)
  /-- `LDA dp`, opcode A5, Direct Page (R175). -/
  | ldaDp (dp : Byte)
  /-- `LDA (dp)`, opcode B2, Direct Page Indirect (R176). -/
  | ldaDpInd (dp : Byte)
  /-- `LDA [dp]`, opcode A7, Direct Page Indirect Long (R177). -/
  | ldaDpIndLong (dp : Byte)
  /-- `LDA addr,X`, opcode BD, Absolute Indexed X (R178). -/
  | ldaAbsX (addr : Word)
  /-- `LDA long,X`, opcode BF, Absolute Long Indexed X (R179). -/
  | ldaLongX (long : Addr)
  /-- `LDA addr,Y`, opcode B9, Absolute Indexed Y (R180). -/
  | ldaAbsY (addr : Word)
  /-- `LDA dp,X`, opcode B5, Direct Page Indexed X (R181). -/
  | ldaDpX (dp : Byte)
  /-- `LDA (dp,X)`, opcode A1, Direct Page Indexed Indirect X (R182). -/
  | ldaDpXInd (dp : Byte)
  /-- `LDA (dp),Y`, opcode B1, Direct Page Indirect Indexed Y (R183). -/
  | ldaDpIndY (dp : Byte)
  /-- `LDA [dp],Y`, opcode B7, Direct Page Indirect Long Indexed Y (R184). -/
  | ldaDpIndLongY (dp : Byte)
  /-- `LDA sr,S`, opcode A3, Stack Relative (R185). -/
  | ldaSr (sr : Byte)
  /-- `LDA (sr,S),Y`, opcode B3, Stack Relative Indirect Indexed Y (R186). -/
  | ldaSrIndY (sr : Byte)
  -- LDX, Load Index Register X from Memory (R190)
  /-- `LDX #const`, opcode A2, Immediate (R192). -/
  | ldxImm (const : Word)
  /-- `LDX addr`, opcode AE, Absolute (R193). -/
  | ldxAbs (addr : Word)
  /-- `LDX dp`, opcode A6, Direct Page (R194). -/
  | ldxDp (dp : Byte)
  /-- `LDX addr,Y`, opcode BE, Absolute Indexed Y (R195). -/
  | ldxAbsY (addr : Word)
  /-- `LDX dp,Y`, opcode B6, Direct Page Indexed Y (R196). -/
  | ldxDpY (dp : Byte)
  -- LDY, Load Index Register Y from Memory (R200)
  /-- `LDY #const`, opcode A0, Immediate (R202). -/
  | ldyImm (const : Word)
  /-- `LDY addr`, opcode AC, Absolute (R203). -/
  | ldyAbs (addr : Word)
  /-- `LDY dp`, opcode A4, Direct Page (R204). -/
  | ldyDp (dp : Byte)
  /-- `LDY addr,X`, opcode BC, Absolute Indexed X (R205). -/
  | ldyAbsX (addr : Word)
  /-- `LDY dp,X`, opcode B4, Direct Page Indexed X (R206). -/
  | ldyDpX (dp : Byte)
  -- STA, Store Accumulator to Memory (R210)
  /-- `STA addr`, opcode 8D, Absolute (R212). -/
  | staAbs (addr : Word)
  /-- `STA long`, opcode 8F, Absolute Long (R213). -/
  | staLong (long : Addr)
  /-- `STA dp`, opcode 85, Direct Page (R214). -/
  | staDp (dp : Byte)
  /-- `STA (dp)`, opcode 92, Direct Page Indirect (R215). -/
  | staDpInd (dp : Byte)
  /-- `STA [dp]`, opcode 87, Direct Page Indirect Long (R216). -/
  | staDpIndLong (dp : Byte)
  /-- `STA addr,X`, opcode 9D, Absolute Indexed X (R217). -/
  | staAbsX (addr : Word)
  /-- `STA long,X`, opcode 9F, Absolute Long Indexed X (R218). -/
  | staLongX (long : Addr)
  /-- `STA addr,Y`, opcode 99, Absolute Indexed Y (R219). -/
  | staAbsY (addr : Word)
  /-- `STA dp,X`, opcode 95, Direct Page Indexed X (R220). -/
  | staDpX (dp : Byte)
  /-- `STA (dp,X)`, opcode 81, Direct Page Indexed Indirect X (R221). -/
  | staDpXInd (dp : Byte)
  /-- `STA (dp),Y`, opcode 91, Direct Page Indirect Indexed Y (R222). -/
  | staDpIndY (dp : Byte)
  /-- `STA [dp],Y`, opcode 97, Direct Page Indirect Long Indexed Y (R223). -/
  | staDpIndLongY (dp : Byte)
  /-- `STA sr,S`, opcode 83, Stack Relative (R224). -/
  | staSr (sr : Byte)
  /-- `STA (sr,S),Y`, opcode 93, Stack Relative Indirect Indexed Y (R225). -/
  | staSrIndY (sr : Byte)
  -- STX, Store Index Register X to Memory (R230)
  /-- `STX addr`, opcode 8E, Absolute (R232). -/
  | stxAbs (addr : Word)
  /-- `STX dp`, opcode 86, Direct Page (R233). -/
  | stxDp (dp : Byte)
  /-- `STX dp,Y`, opcode 96, Direct Page Indexed Y (R234). -/
  | stxDpY (dp : Byte)
  -- STY, Store Index Register Y to Memory (R240)
  /-- `STY addr`, opcode 8C, Absolute (R242). -/
  | styAbs (addr : Word)
  /-- `STY dp`, opcode 84, Direct Page (R243). -/
  | styDp (dp : Byte)
  /-- `STY dp,X`, opcode 94, Direct Page Indexed X (R244). -/
  | styDpX (dp : Byte)
  -- STZ, Store Zero to Memory (R250)
  /-- `STZ addr`, opcode 9C, Absolute (R252). -/
  | stzAbs (addr : Word)
  /-- `STZ dp`, opcode 64, Direct Page (R253). -/
  | stzDp (dp : Byte)
  /-- `STZ addr,X`, opcode 9E, Absolute Indexed X (R254). -/
  | stzAbsX (addr : Word)
  /-- `STZ dp,X`, opcode 74, Direct Page Indexed X (R255). -/
  | stzDpX (dp : Byte)
  -- Transfers and XBA (R258)
  /-- `TAX`, opcode AA, Implied (R260). -/
  | tax
  /-- `TAY`, opcode A8, Implied (R261). -/
  | tay
  /-- `TCD`, opcode 5B, Implied (R262). -/
  | tcd
  /-- `TCS`, opcode 1B, Implied (R263). -/
  | tcs
  /-- `TDC`, opcode 7B, Implied (R264). -/
  | tdc
  /-- `TSC`, opcode 3B, Implied (R265). -/
  | tsc
  /-- `TSX`, opcode BA, Implied (R266). -/
  | tsx
  /-- `TXA`, opcode 8A, Implied (R267). -/
  | txa
  /-- `TXS`, opcode 9A, Implied (R268). -/
  | txs
  /-- `TXY`, opcode 9B, Implied (R269). -/
  | txy
  /-- `TYA`, opcode 98, Implied (R270). -/
  | tya
  /-- `TYX`, opcode BB, Implied (R271). -/
  | tyx
  /-- `XBA`, opcode EB, Implied (R272). -/
  | xba
  deriving DecidableEq, Repr

end Sys2Proof
end

