-- ==== Sys2Proof/WellFormed.lean ====
section
/-!
DEFINITION. Which instructions are well formed in a decoding context: the opcode is available on the variant
(R111), and an immediate operand fits the width in force (R105, R106).
-/

namespace Sys2Proof

/-- Availability of a row on a variant (R111): "The spec reads two marks as 65C02 and 65816, and one mark as
65816 only". -/
def Avail.allows : Avail → Variant → Bool
  | .all, _ => true
  | .from65C02, .m6502 => false
  | .from65C02, .m65C02 => true
  | .from65C02, .m65816 => true
  | .only65816, .m6502 => false
  | .only65816, .m65C02 => false
  | .only65816, .m65816 => true

/-- The availability of each instruction, transcribed from the table of R111. -/
def Instr.avail : Instr → Avail
  | .ldaImm _ | .ldaAbs _ | .ldaDp _ | .ldaAbsX _ | .ldaAbsY _ | .ldaDpX _ | .ldaDpXInd _ | .ldaDpIndY _ |
    .ldxImm _ | .ldxAbs _ | .ldxDp _ | .ldxAbsY _ | .ldxDpY _ | .ldyImm _ | .ldyAbs _ | .ldyDp _ | .ldyAbsX _ |
    .ldyDpX _ | .staAbs _ | .staDp _ | .staAbsX _ | .staAbsY _ | .staDpX _ | .staDpXInd _ | .staDpIndY _ |
    .stxAbs _ | .stxDp _ | .stxDpY _ | .styAbs _ | .styDp _ | .styDpX _ | .tax | .tay | .tsx | .txa | .txs |
    .tya => .all
  | .ldaDpInd _ | .staDpInd _ | .stzAbs _ | .stzDp _ | .stzAbsX _ | .stzDpX _ => .from65C02
  | .ldaLong _ | .ldaDpIndLong _ | .ldaLongX _ | .ldaDpIndLongY _ | .ldaSr _ | .ldaSrIndY _ | .staLong _ |
    .staDpIndLong _ | .staLongX _ | .staDpIndLongY _ | .staSr _ | .staSrIndY _ | .tcd | .tcs | .tdc | .tsc |
    .txy | .tyx | .xba => .only65816

/-- The immediate operand of an instruction and the width it has in the context (R105): `wA` for LDA, the
width of LDX and LDY data for the other two. -/
def Instr.immediate? (c : Ctx) : Instr → Option (Width × Word)
  | .ldaImm k => some (c.wA, k)
  | .ldxImm k | .ldyImm k => some (c.wI, k)
  | .ldaAbs _ | .ldaLong _ | .ldaDp _ | .ldaDpInd _ | .ldaDpIndLong _ | .ldaAbsX _ | .ldaLongX _ | .ldaAbsY _ |
    .ldaDpX _ | .ldaDpXInd _ | .ldaDpIndY _ | .ldaDpIndLongY _ | .ldaSr _ | .ldaSrIndY _ | .ldxAbs _ |
    .ldxDp _ | .ldxAbsY _ | .ldxDpY _ | .ldyAbs _ | .ldyDp _ | .ldyAbsX _ | .ldyDpX _ | .staAbs _ |
    .staLong _ | .staDp _ | .staDpInd _ | .staDpIndLong _ | .staAbsX _ | .staLongX _ | .staAbsY _ | .staDpX _ |
    .staDpXInd _ | .staDpIndY _ | .staDpIndLongY _ | .staSr _ | .staSrIndY _ | .stxAbs _ | .stxDp _ |
    .stxDpY _ | .styAbs _ | .styDp _ | .styDpX _ | .stzAbs _ | .stzDp _ | .stzAbsX _ | .stzDpX _ | .tax |
    .tay | .tcd | .tcs | .tdc | .tsc | .tsx | .txa | .txs | .txy | .tya | .tyx | .xba => none

/-- An immediate operand fits its width: at width 8 it is at most 0xFF (R106). -/
def constFits : Width → Word → Bool
  | .w8, k => k.toNat < 256
  | .w16, _ => true

/-- Well-formedness of an instruction in a decoding context. -/
def Instr.wf (c : Ctx) (i : Instr) : Bool :=
  i.avail.allows c.variant && (i.immediate? c).all fun p => constFits p.1 p.2

end Sys2Proof
end

