-- ==== Sys2Proof/Decode.lean ====
section
/-!
DEFINITION. The opcode table (R109, R110), the decoder (R100 to R108) and the encoder written from the same
formats. Decoding is total on any bytes and rejects by name.
-/

namespace Sys2Proof

/-! ### Byte order (R74, R103, R104, R106) -/

/-- The 16-bit value with high byte `hi` and low byte `lo`. -/
def word (hi lo : Byte) : Word := hi ++ lo

/-- The 24-bit value with bank `b`, offset high byte `hi` and offset low byte `lo`. -/
def long (b hi lo : Byte) : Addr := b ++ (hi ++ lo : Word)

/-- The low byte of a 16-bit value. -/
def loByte (v : Word) : Byte := v.extractLsb' 0 8

/-- The high byte of a 16-bit value. -/
def hiByte (v : Word) : Byte := v.extractLsb' 8 8

/-- A 16-bit operand in memory order, low byte first (R103, R106). -/
def wordBytes (v : Word) : List Byte := [loByte v, hiByte v]

/-- A 24-bit operand in memory order: offset low, offset high, bank (R104, R106). -/
def longBytes (v : Addr) : List Byte := [v.extractLsb' 0 8, v.extractLsb' 8 8, v.extractLsb' 16 8]

/-- An immediate operand in memory order at a width (R105, R106). -/
def constBytes : Width → Word → List Byte
  | .w8, k => [loByte k]
  | .w16, k => wordBytes k

/-! ### The opcode table -/

/-- The format of a row (R101 to R105) with the instruction it builds from its operand. -/
inductive Shape where
  /-- `IMP`: one byte (R101). -/
  | imp (i : Instr)
  /-- `B8`: two bytes (R102). -/
  | b8 (mk : Byte → Instr)
  /-- `W16`: three bytes (R103). -/
  | w16 (mk : Word → Instr)
  /-- `L24`: four bytes (R104). -/
  | l24 (mk : Addr → Instr)
  /-- `LDA #const`: `B8` or `W16` by the accumulator width (R105). -/
  | immA (mk : Word → Instr)
  /-- `LDX #const`, `LDY #const`: `B8` or `W16` by the index datum width (R105). -/
  | immX (mk : Word → Instr)

/-- The timing notes of a row (R341): "W" the width note, "D" the Direct Page note, "P" the page-crossing note. -/
inductive Notes where
  | none
  | w
  | wd
  | wp
  | wdp
  deriving DecidableEq, Repr

/-- One row of the opcode table (R110): the opcode byte, matched whole (R108), the instruction as the source
writes it, its availability (R111), its format, and its base cycle count with notes (R341). -/
structure Row where
  opcode : Byte
  name : String
  avail : Avail
  shape : Shape
  cycles : Nat
  notes : Notes

/-- Rows of LDA, Load Accumulator from Memory (R170). -/
def tableLda : List Row := [
  ⟨0xA9#8, "LDA #const", .all, .immA .ldaImm, 2, .w⟩,
  ⟨0xAD#8, "LDA addr", .all, .w16 .ldaAbs, 4, .w⟩,
  ⟨0xAF#8, "LDA long", .only65816, .l24 .ldaLong, 5, .w⟩,
  ⟨0xA5#8, "LDA dp", .all, .b8 .ldaDp, 3, .wd⟩,
  ⟨0xB2#8, "LDA (dp)", .from65C02, .b8 .ldaDpInd, 5, .wd⟩,
  ⟨0xA7#8, "LDA [dp]", .only65816, .b8 .ldaDpIndLong, 6, .wd⟩,
  ⟨0xBD#8, "LDA addr,X", .all, .w16 .ldaAbsX, 4, .wp⟩,
  ⟨0xBF#8, "LDA long,X", .only65816, .l24 .ldaLongX, 5, .w⟩,
  ⟨0xB9#8, "LDA addr,Y", .all, .w16 .ldaAbsY, 4, .wp⟩,
  ⟨0xB5#8, "LDA dp,X", .all, .b8 .ldaDpX, 4, .wd⟩,
  ⟨0xA1#8, "LDA (dp,X)", .all, .b8 .ldaDpXInd, 6, .wd⟩,
  ⟨0xB1#8, "LDA (dp),Y", .all, .b8 .ldaDpIndY, 5, .wdp⟩,
  ⟨0xB7#8, "LDA [dp],Y", .only65816, .b8 .ldaDpIndLongY, 6, .wd⟩,
  ⟨0xA3#8, "LDA sr,S", .only65816, .b8 .ldaSr, 4, .w⟩,
  ⟨0xB3#8, "LDA (sr,S),Y", .only65816, .b8 .ldaSrIndY, 7, .w⟩]

/-- Rows of LDX, Load Index Register X from Memory (R190). -/
def tableLdx : List Row := [
  ⟨0xA2#8, "LDX #const", .all, .immX .ldxImm, 2, .w⟩,
  ⟨0xAE#8, "LDX addr", .all, .w16 .ldxAbs, 4, .w⟩,
  ⟨0xA6#8, "LDX dp", .all, .b8 .ldxDp, 3, .wd⟩,
  ⟨0xBE#8, "LDX addr,Y", .all, .w16 .ldxAbsY, 4, .wp⟩,
  ⟨0xB6#8, "LDX dp,Y", .all, .b8 .ldxDpY, 4, .wd⟩]

/-- Rows of LDY, Load Index Register Y from Memory (R200). -/
def tableLdy : List Row := [
  ⟨0xA0#8, "LDY #const", .all, .immX .ldyImm, 2, .w⟩,
  ⟨0xAC#8, "LDY addr", .all, .w16 .ldyAbs, 4, .w⟩,
  ⟨0xA4#8, "LDY dp", .all, .b8 .ldyDp, 3, .wd⟩,
  ⟨0xBC#8, "LDY addr,X", .all, .w16 .ldyAbsX, 4, .wp⟩,
  ⟨0xB4#8, "LDY dp,X", .all, .b8 .ldyDpX, 4, .wd⟩]

/-- Rows of STA, Store Accumulator to Memory (R210). -/
def tableSta : List Row := [
  ⟨0x8D#8, "STA addr", .all, .w16 .staAbs, 4, .w⟩,
  ⟨0x8F#8, "STA long", .only65816, .l24 .staLong, 5, .w⟩,
  ⟨0x85#8, "STA dp", .all, .b8 .staDp, 3, .wd⟩,
  ⟨0x92#8, "STA (dp)", .from65C02, .b8 .staDpInd, 5, .wd⟩,
  ⟨0x87#8, "STA [dp]", .only65816, .b8 .staDpIndLong, 6, .wd⟩,
  ⟨0x9D#8, "STA addr,X", .all, .w16 .staAbsX, 4, .w⟩,
  ⟨0x9F#8, "STA long,X", .only65816, .l24 .staLongX, 5, .w⟩,
  ⟨0x99#8, "STA addr,Y", .all, .w16 .staAbsY, 4, .w⟩,
  ⟨0x95#8, "STA dp,X", .all, .b8 .staDpX, 4, .wd⟩,
  ⟨0x81#8, "STA (dp,X)", .all, .b8 .staDpXInd, 6, .wd⟩,
  ⟨0x91#8, "STA (dp),Y", .all, .b8 .staDpIndY, 5, .wd⟩,
  ⟨0x97#8, "STA [dp],Y", .only65816, .b8 .staDpIndLongY, 6, .wd⟩,
  ⟨0x83#8, "STA sr,S", .only65816, .b8 .staSr, 4, .w⟩,
  ⟨0x93#8, "STA (sr,S),Y", .only65816, .b8 .staSrIndY, 7, .w⟩]

/-- Rows of STX, Store Index Register X to Memory (R230). -/
def tableStx : List Row := [
  ⟨0x8E#8, "STX addr", .all, .w16 .stxAbs, 4, .w⟩,
  ⟨0x86#8, "STX dp", .all, .b8 .stxDp, 3, .wd⟩,
  ⟨0x96#8, "STX dp,Y", .all, .b8 .stxDpY, 4, .wd⟩]

/-- Rows of STY, Store Index Register Y to Memory (R240). -/
def tableSty : List Row := [
  ⟨0x8C#8, "STY addr", .all, .w16 .styAbs, 4, .w⟩,
  ⟨0x84#8, "STY dp", .all, .b8 .styDp, 3, .wd⟩,
  ⟨0x94#8, "STY dp,X", .all, .b8 .styDpX, 4, .wd⟩]

/-- Rows of STZ, Store Zero to Memory (R250). -/
def tableStz : List Row := [
  ⟨0x9C#8, "STZ addr", .from65C02, .w16 .stzAbs, 4, .w⟩,
  ⟨0x64#8, "STZ dp", .from65C02, .b8 .stzDp, 3, .wd⟩,
  ⟨0x9E#8, "STZ addr,X", .from65C02, .w16 .stzAbsX, 5, .w⟩,
  ⟨0x74#8, "STZ dp,X", .from65C02, .b8 .stzDpX, 4, .wd⟩]

/-- Rows of Transfers and XBA (R258). -/
def tableTransfer : List Row := [
  ⟨0xAA#8, "TAX", .all, .imp .tax, 2, .none⟩,
  ⟨0xA8#8, "TAY", .all, .imp .tay, 2, .none⟩,
  ⟨0x5B#8, "TCD", .only65816, .imp .tcd, 2, .none⟩,
  ⟨0x1B#8, "TCS", .only65816, .imp .tcs, 2, .none⟩,
  ⟨0x7B#8, "TDC", .only65816, .imp .tdc, 2, .none⟩,
  ⟨0x3B#8, "TSC", .only65816, .imp .tsc, 2, .none⟩,
  ⟨0xBA#8, "TSX", .all, .imp .tsx, 2, .none⟩,
  ⟨0x8A#8, "TXA", .all, .imp .txa, 2, .none⟩,
  ⟨0x9A#8, "TXS", .all, .imp .txs, 2, .none⟩,
  ⟨0x9B#8, "TXY", .only65816, .imp .txy, 2, .none⟩,
  ⟨0x98#8, "TYA", .all, .imp .tya, 2, .none⟩,
  ⟨0xBB#8, "TYX", .only65816, .imp .tyx, 2, .none⟩,
  ⟨0xEB#8, "XBA", .only65816, .imp .xba, 2, .none⟩]

/-- The 62 rows (R109, R110). -/
def table : List Row :=
  tableLda ++ tableLdx ++ tableLdy ++ tableSta ++ tableStx ++ tableSty ++ tableStz ++ tableTransfer

/-- The row whose opcode is `b0` (R107, R110); none for the 194 bytes outside the table (R112). -/
def rowOf (b0 : Byte) : Option Row := table.find? fun r => r.opcode == b0

/-- The alternate mnemonics of R115 with the opcode each assembles to. -/
def alternateMnemonics : List (String × Byte) := [("TAS", 0x1B#8), ("TDA", 0x7B#8), ("TSA", 0x3B#8)]

/-! ### Decoding -/

/-- Why bytes are no instruction. -/
inductive Reject where
  /-- The first byte is none of the 62 opcodes (R112). -/
  | opcodeNotInSpec (b0 : Byte)
  /-- The opcode is listed, but not for the variant (R111). -/
  | opcodeNotAvailable (b0 : Byte) (v : Variant)
  /-- The list of bytes ends before the instruction does. -/
  | truncated
  deriving DecidableEq, Repr

/-- The length in bytes of an immediate instruction at a width (R105). -/
def immLength : Width → Nat
  | .w8 => 2
  | .w16 => 3

/-- The length in bytes of an instruction of a format (R101 to R105). -/
def Shape.length (c : Ctx) : Shape → Nat
  | .imp _ => 1
  | .b8 _ => 2
  | .w16 _ => 3
  | .l24 _ => 4
  | .immA _ => immLength c.wA
  | .immX _ => immLength c.wI

/-- The immediate operand at the front of the bytes after the opcode (R105, R106), with the bytes after it. -/
def takeConst : Width → List Byte → Option (Word × List Byte)
  | .w8, b1 :: rest => some (word 0 b1, rest)
  | .w16, b1 :: b2 :: rest => some (word b2 b1, rest)
  | _, _ => none

/-- Operand assembly (R106): the instruction a format builds from the bytes after the opcode, and the rest. -/
def Shape.build (c : Ctx) : Shape → List Byte → Option (Instr × List Byte)
  | .imp i, rest => some (i, rest)
  | .b8 mk, b1 :: rest => some (mk b1, rest)
  | .w16 mk, b1 :: b2 :: rest => some (mk (word b2 b1), rest)
  | .l24 mk, b1 :: b2 :: b3 :: rest => some (mk (long b3 b2 b1), rest)
  | .immA mk, bs => (takeConst c.wA bs).map fun p => (mk p.1, p.2)
  | .immX mk, bs => (takeConst c.wI bs).map fun p => (mk p.1, p.2)
  | .b8 _, _ => none
  | .w16 _, _ => none
  | .l24 _, _ => none

/-- The table lookup of R107: the row of an opcode byte that the variant has, or why there is none. -/
def lookup (v : Variant) (b0 : Byte) : Except Reject Row :=
  match rowOf b0 with
  | none => .error (.opcodeNotInSpec b0)
  | some r => if r.avail.allows v then .ok r else .error (.opcodeNotAvailable b0 v)

/-- The decoder (R107, R108): the instruction at the front of a list of bytes and the bytes after it. -/
def decode (c : Ctx) : List Byte → Except Reject (Instr × List Byte)
  | [] => .error .truncated
  | b0 :: bs =>
    match lookup c.variant b0 with
    | .error r => .error r
    | .ok row =>
      match row.shape.build c bs with
      | none => .error .truncated
      | some x => .ok x

/-! ### Encoding -/

/-- The opcode byte of each instruction (R109). -/
def Instr.opcode : Instr → Byte
  | .ldaImm _ => 0xA9#8
  | .ldaAbs _ => 0xAD#8
  | .ldaLong _ => 0xAF#8
  | .ldaDp _ => 0xA5#8
  | .ldaDpInd _ => 0xB2#8
  | .ldaDpIndLong _ => 0xA7#8
  | .ldaAbsX _ => 0xBD#8
  | .ldaLongX _ => 0xBF#8
  | .ldaAbsY _ => 0xB9#8
  | .ldaDpX _ => 0xB5#8
  | .ldaDpXInd _ => 0xA1#8
  | .ldaDpIndY _ => 0xB1#8
  | .ldaDpIndLongY _ => 0xB7#8
  | .ldaSr _ => 0xA3#8
  | .ldaSrIndY _ => 0xB3#8
  | .ldxImm _ => 0xA2#8
  | .ldxAbs _ => 0xAE#8
  | .ldxDp _ => 0xA6#8
  | .ldxAbsY _ => 0xBE#8
  | .ldxDpY _ => 0xB6#8
  | .ldyImm _ => 0xA0#8
  | .ldyAbs _ => 0xAC#8
  | .ldyDp _ => 0xA4#8
  | .ldyAbsX _ => 0xBC#8
  | .ldyDpX _ => 0xB4#8
  | .staAbs _ => 0x8D#8
  | .staLong _ => 0x8F#8
  | .staDp _ => 0x85#8
  | .staDpInd _ => 0x92#8
  | .staDpIndLong _ => 0x87#8
  | .staAbsX _ => 0x9D#8
  | .staLongX _ => 0x9F#8
  | .staAbsY _ => 0x99#8
  | .staDpX _ => 0x95#8
  | .staDpXInd _ => 0x81#8
  | .staDpIndY _ => 0x91#8
  | .staDpIndLongY _ => 0x97#8
  | .staSr _ => 0x83#8
  | .staSrIndY _ => 0x93#8
  | .stxAbs _ => 0x8E#8
  | .stxDp _ => 0x86#8
  | .stxDpY _ => 0x96#8
  | .styAbs _ => 0x8C#8
  | .styDp _ => 0x84#8
  | .styDpX _ => 0x94#8
  | .stzAbs _ => 0x9C#8
  | .stzDp _ => 0x64#8
  | .stzAbsX _ => 0x9E#8
  | .stzDpX _ => 0x74#8
  | .tax => 0xAA#8
  | .tay => 0xA8#8
  | .tcd => 0x5B#8
  | .tcs => 0x1B#8
  | .tdc => 0x7B#8
  | .tsc => 0x3B#8
  | .tsx => 0xBA#8
  | .txa => 0x8A#8
  | .txs => 0x9A#8
  | .txy => 0x9B#8
  | .tya => 0x98#8
  | .tyx => 0xBB#8
  | .xba => 0xEB#8

/-- The encoder: the bytes of an instruction in memory order in a decoding context (R101 to R106). -/
def encode (c : Ctx) : Instr → List Byte
  | .ldaImm k => 0xA9#8 :: constBytes c.wA k
  | .ldaAbs o => 0xAD#8 :: wordBytes o
  | .ldaLong o => 0xAF#8 :: longBytes o
  | .ldaDp o => [0xA5#8, o]
  | .ldaDpInd o => [0xB2#8, o]
  | .ldaDpIndLong o => [0xA7#8, o]
  | .ldaAbsX o => 0xBD#8 :: wordBytes o
  | .ldaLongX o => 0xBF#8 :: longBytes o
  | .ldaAbsY o => 0xB9#8 :: wordBytes o
  | .ldaDpX o => [0xB5#8, o]
  | .ldaDpXInd o => [0xA1#8, o]
  | .ldaDpIndY o => [0xB1#8, o]
  | .ldaDpIndLongY o => [0xB7#8, o]
  | .ldaSr o => [0xA3#8, o]
  | .ldaSrIndY o => [0xB3#8, o]
  | .ldxImm k => 0xA2#8 :: constBytes c.wI k
  | .ldxAbs o => 0xAE#8 :: wordBytes o
  | .ldxDp o => [0xA6#8, o]
  | .ldxAbsY o => 0xBE#8 :: wordBytes o
  | .ldxDpY o => [0xB6#8, o]
  | .ldyImm k => 0xA0#8 :: constBytes c.wI k
  | .ldyAbs o => 0xAC#8 :: wordBytes o
  | .ldyDp o => [0xA4#8, o]
  | .ldyAbsX o => 0xBC#8 :: wordBytes o
  | .ldyDpX o => [0xB4#8, o]
  | .staAbs o => 0x8D#8 :: wordBytes o
  | .staLong o => 0x8F#8 :: longBytes o
  | .staDp o => [0x85#8, o]
  | .staDpInd o => [0x92#8, o]
  | .staDpIndLong o => [0x87#8, o]
  | .staAbsX o => 0x9D#8 :: wordBytes o
  | .staLongX o => 0x9F#8 :: longBytes o
  | .staAbsY o => 0x99#8 :: wordBytes o
  | .staDpX o => [0x95#8, o]
  | .staDpXInd o => [0x81#8, o]
  | .staDpIndY o => [0x91#8, o]
  | .staDpIndLongY o => [0x97#8, o]
  | .staSr o => [0x83#8, o]
  | .staSrIndY o => [0x93#8, o]
  | .stxAbs o => 0x8E#8 :: wordBytes o
  | .stxDp o => [0x86#8, o]
  | .stxDpY o => [0x96#8, o]
  | .styAbs o => 0x8C#8 :: wordBytes o
  | .styDp o => [0x84#8, o]
  | .styDpX o => [0x94#8, o]
  | .stzAbs o => 0x9C#8 :: wordBytes o
  | .stzDp o => [0x64#8, o]
  | .stzAbsX o => 0x9E#8 :: wordBytes o
  | .stzDpX o => [0x74#8, o]
  | .tax => [0xAA#8]
  | .tay => [0xA8#8]
  | .tcd => [0x5B#8]
  | .tcs => [0x1B#8]
  | .tdc => [0x7B#8]
  | .tsc => [0x3B#8]
  | .tsx => [0xBA#8]
  | .txa => [0x8A#8]
  | .txs => [0x9A#8]
  | .txy => [0x9B#8]
  | .tya => [0x98#8]
  | .tyx => [0xBB#8]
  | .xba => [0xEB#8]

/-! ### The opcode table's numbering of bits -/

/-- The four bytes that an instruction's bits `w` (bit 0 the least significant bit of the first byte; `nbits`
of them given, the bits above zero) fill in memory order. -/
def tableWordBytes (nbits w : Nat) : List Byte :=
  let v := w % 2 ^ nbits
  [BitVec.ofNat 8 v, BitVec.ofNat 8 (v / 256), BitVec.ofNat 8 (v / 65536), BitVec.ofNat 8 (v / 16777216)]

/-- The context right after reset: a 65816 in emulation mode, both widths 8 (R44, R45, R49; log 1, log 24). -/
def Ctx.atReset : Ctx := ⟨.m65816, .w8, .w8⟩

/-- The instruction the decoder reads, right after reset, from an instruction whose bits are `w`. -/
def decodeTableWord (nbits w : Nat) : Option Instr :=
  match decode Ctx.atReset (tableWordBytes nbits w) with
  | .ok (i, _) => some i
  | .error _ => none

end Sys2Proof
end

