-- ==== Sys2Proof/Machine/State.lean ====
section
/-!
DEFINITION. The machine's state as plain data (R30), why a step can stop (R302), and the state right after
reset (R49). Absent registers of a variant are fields too; Machine/Flags.lean's accessors read them as the
constants R30 gives (assumption log 9).
-/

namespace Sys2Proof.Machine

/-- Memory: the bytes that differ from what an unlisted address reads as, by strictly rising address. -/
abbrev Memory := List Host.Cell

/-- What an unlisted address reads as. The spec leaves memory's contents at launch open (R49, U10): 0x00 is a
DESIGN CHOICE, unsafe (assumption log 2). -/
def Memory.unlisted : Byte := 0x00#8

/-- The architectural state (R30) and the configuration it runs under (R48; assumption log 1). -/
structure State where
  /-- `A`, the accumulator (R31). -/
  a : Byte
  /-- `B`, the hidden high half of `C` (R32); 65816 only. -/
  b : Byte
  /-- `X`, a 16-bit container (R33, R34). -/
  x : Word
  /-- `Y`, a 16-bit container (R33, R34). -/
  y : Word
  /-- `S`, the stack pointer (R35, R36). -/
  s : Word
  /-- `D`, the Direct Page register (R37); 65816 only. -/
  d : Word
  /-- `DBR`, the data bank register (R38); 65816 only. -/
  dbr : Byte
  /-- `PBR`, the program bank register (R39); 65816 only. -/
  pbr : Byte
  /-- `PC`, the program counter (R46). -/
  pc : Word
  /-- `P`, the processor status register (R40). -/
  p : Byte
  /-- `e`, the emulation mode flag (R43); 65816 only. -/
  e : Bool
  /-- `Mem` (R70). -/
  mem : Memory
  /-- The parameters of R7: the MODEL's own field; no step writes it. -/
  cfg : Config
  deriving DecidableEq, Repr

/-- Why a step faults: for no reason. The spec names no fault and no stuck state (R300; 93_implementation_defined.md
part A: "No behaviour is treated as fault or stuck"), so the type has no constructor. -/
inductive Fault where
  deriving DecidableEq, Repr

/-- Why a step has no successor (R13, R302). Every reason is safe: no claim goes through a refused step. -/
inductive Refusal where
  /-- An instruction of the table without a meaning; no arm of `exec` raises it. Safe. -/
  | notModelled (mnemonic : String)
  /-- Raised by the fetch: the byte at `{PBR, PC}` is none of the 62 opcodes (R112). Safe. -/
  | opcodeNotInSpec (b0 : Byte)
  /-- Raised by the fetch, and by the meaning of every instruction that some variant lacks: the opcode is not
  available on the variant (R111). Safe. -/
  | opcodeNotAvailable (b0 : Byte) (v : Variant)
  /-- Raised by the Direct Page pointer modes on a 65816 in emulation mode with `EMU_DP_CORNERS` = `refuse`: the
  pointer would straddle a page (R151). Safe. -/
  | emuPointerWrap
  /-- Raised by the Stack Relative modes on a 65816 in emulation mode with `EMU_DP_CORNERS` = `refuse`: the access
  would leave page 1 (R151). Safe. -/
  | emuStackRelative
  /-- Raised by every memory access: `MEMMAP` does not give the address as plain memory for it (R78). Safe. -/
  | notPlainMemory (addr : Addr)
  /-- Raised by the fetch when `INTERRUPTS` = `true`, for which the spec has no rules (R303). Safe. -/
  | asyncEvents
  /-- Raised by the fetch when the bytes it read end before the instruction; it reads as many as the instruction
  has, so no step raises it. Safe. -/
  | truncated
  deriving DecidableEq, Repr

/-- The state right after reset on the variant `v` (R49; where R49 says "unspecified" the value is 0, assumption
log 4). The constants of absent registers (R30) are those of the 65816's column. `PC` is the vector
`{Mem[0xFFFD], Mem[0xFFFC]}` read from a memory with nothing listed. `P` is i, m and x set (bits 2, 5, 4). -/
def State.resetFor (v : Variant) : State where
  a := 0x00#8
  b := 0x00#8
  x := 0x0000#16
  y := 0x0000#16
  s := 0x0100#16
  d := 0x0000#16
  dbr := 0x00#8
  pbr := 0x00#8
  pc := word Memory.unlisted Memory.unlisted
  p := 0x34#8
  e := true
  mem := []
  cfg := Config.standard v

/-- The machine right after reset: a 65816, the variant that has all 62 opcodes (DESIGN CHOICE, assumption
log 1). -/
def State.reset : State := State.resetFor .m65816

end Sys2Proof.Machine
end

