-- ==== Sys2Proof/Machine/Flags.lean ====
section
/-!
DEFINITION. The bits of `P`, the mode, the data widths they set, the registers as each variant reads them, and
the one flag computation of the instructions in scope, `setNZ` (R14, R30, R32, R37 to R45).
-/

namespace Sys2Proof.Machine

/-! ### Mode and absent registers (R30) -/

/-- The 65816 is the only 16-bit processor (R2). -/
def State.is65816 (s : State) : Bool := s.cfg.variant == .m65816

/-- `e`; absent on the 8-bit processors, where it reads as 1 (R30, R43). -/
def State.eFlag (s : State) : Bool := if s.is65816 then s.e else true

/-- `D`; absent on the 8-bit processors, where it reads as 0 (R30, R37). -/
def State.dReg (s : State) : Word := if s.is65816 then s.d else 0

/-- `DBR`; absent on the 8-bit processors, where it reads as 0 (R30, R38). -/
def State.dbrReg (s : State) : Byte := if s.is65816 then s.dbr else 0

/-- `PBR`; absent on the 8-bit processors, where it reads as 0 (R30, R39). -/
def State.pbrReg (s : State) : Byte := if s.is65816 then s.pbr else 0

/-- `C` is `{B, A}` at all times (R11, R32). -/
def State.c (s : State) : Word := word s.b s.a

/-! ### The flags of `P` (R40) -/

/-- The bit number of each flag (R40): n. -/
def bitN : Nat := 7
/-- The bit number of v. -/
def bitV : Nat := 6
/-- The bit number of m (native mode) or of the unused bit that reads as 1. -/
def bitM : Nat := 5
/-- The bit number of x (native mode) or of b. -/
def bitX : Nat := 4
/-- The bit number of d. -/
def bitD : Nat := 3
/-- The bit number of i. -/
def bitI : Nat := 2
/-- The bit number of z. -/
def bitZ : Nat := 1
/-- The bit number of c. -/
def bitC : Nat := 0

/-- `P.n` (R41). -/
def State.flagN (s : State) : Bool := s.p.getLsbD bitN
/-- `P.v` (R40). -/
def State.flagV (s : State) : Bool := s.p.getLsbD bitV
/-- `P.d` (R40). -/
def State.flagD (s : State) : Bool := s.p.getLsbD bitD
/-- `P.i` (R40). -/
def State.flagI (s : State) : Bool := s.p.getLsbD bitI
/-- `P.z` (R41). -/
def State.flagZ (s : State) : Bool := s.p.getLsbD bitZ
/-- `P.c` (R40). -/
def State.flagC (s : State) : Bool := s.p.getLsbD bitC

/-- `P.m`: the bit of `P` on a 65816 in native mode (R42); elsewhere it reads as 1 (R43, U16). -/
def State.flagM (s : State) : Bool := if s.eFlag then true else s.p.getLsbD bitM

/-- `P.x`: the bit of `P` on a 65816 in native mode (R42); elsewhere it reads as 1 (R43, U16). -/
def State.flagX (s : State) : Bool := if s.eFlag then true else s.p.getLsbD bitX

/-! ### Widths -/

/-- The accumulator and memory width `wA` (R44). -/
def State.wA (s : State) : Width := if s.flagM then .w8 else .w16

/-- The index width `wX` (R45). -/
def State.wX (s : State) : Width := if s.flagX then .w8 else .w16

/-- The datum width of LDX, LDY, STX and STY: `wX`, or `wA` under `INDEX_WIDTH_FLAG` = `m` (R45, R105). -/
def State.wI (s : State) : Width :=
  match s.cfg.indexWidthFlag with
  | .x => s.wX
  | .m => s.wA

/-- What the decoder must know of the state (R108). -/
def State.ctx (s : State) : Ctx := ⟨s.cfg.variant, s.wA, s.wI⟩

/-! ### `setNZ` (R14) -/

/-- `v` with bit `k` written to `f`. -/
def writeBit (v : Byte) (k : Nat) (f : Bool) : Byte :=
  if f then v ||| (1#8 <<< k) else v &&& ~~~(1#8 <<< k)

/-- The top bit of a value at a width (R9). -/
def msbAt : Width → Word → Bool
  | .w8, v => v.getLsbD 7
  | .w16, v => v.getLsbD 15

/-- Whether a value is zero at a width (R14). -/
def zeroAt : Width → Word → Bool
  | .w8, v => loByte v == 0
  | .w16, v => v == 0

/-- `setNZ_w(v)` on `P` (R14): n is the top bit of the `w`-bit value, z says it is 0; both are written every time
and no other bit changes. -/
def setNZ (w : Width) (v : Word) (p : Byte) : Byte :=
  writeBit (writeBit p bitN (msbAt w v)) bitZ (zeroAt w v)

/-- `setNZ_w(v)` on the state. -/
def State.putNZ (s : State) (w : Width) (v : Word) : State := { s with p := setNZ w v s.p }

end Sys2Proof.Machine
end

