-- ==== Sys2Proof/Machine/Ops.lean ====
section
/-!
DEFINITION. The named operations over memory and registers that the meanings share: the memory primitives of R12
with the memory map of R78, data of width 8 or 16 (R73, R76, R77), register writes by width (R32 to R34), the
advance of `PC` (R107), availability (R111), and the four load, store and immediate shapes of R170, R190, R200,
R210, R230, R240 and R250. No exception is taken: the spec has none to take (R300, R303, R305; log 18).
-/

namespace Sys2Proof.Machine

/-! ### Memory as a list of cells -/

/-- The byte at an address: what is listed there, or `Memory.unlisted`. -/
def Memory.read : Memory → Nat → Byte
  | [], _ => Memory.unlisted
  | (b, v) :: m, a => if b = a then v else Memory.read m a

/-- A cell placed before the first cell of a higher address. -/
def Memory.insert (a : Nat) (v : Byte) : Memory → Memory
  | [] => [(a, v)]
  | (b, w) :: m => if a < b then (a, v) :: (b, w) :: m else (b, w) :: Memory.insert a v m

/-- The memory with the byte at `a` written to `v`; writing `Memory.unlisted` unlists the address. -/
def Memory.write (m : Memory) (a : Nat) (v : Byte) : Memory :=
  let rest := m.filter fun c => c.1 != a
  if v = Memory.unlisted then rest else Memory.insert a v rest

/-- The canonical form: addresses strictly rising, no cell equal to what an unlisted address reads as. -/
abbrev Memory.wf (m : Memory) : Prop :=
  m.Pairwise (fun p q => p.1 < q.1) ∧ ∀ c ∈ m, c.2 ≠ Memory.unlisted

/-! ### Addresses (R70, R130) -/

/-- `A24(b, o)`: bank and offset; on the 8-bit processors, where the bank is always 0, the offset (R130). -/
def State.a24 (s : State) (bank : Byte) (offset : Word) : Addr :=
  if s.is65816 then bank ++ offset else offset.setWidth 24

/-- `lin(a, k) = (a + k) mod 2^ADDR_BITS` (R130). -/
def State.lin (s : State) (a : Addr) (k : Word) : Addr :=
  if s.is65816 then a + k.setWidth 24 else ((a.setWidth 16 + k : Word)).setWidth 24

/-- How many addresses the variant has: `2^ADDR_BITS` (R7, R70). -/
def State.addrSpace (s : State) : Nat := if s.is65816 then 2 ^ 24 else 2 ^ 16

/-! ### The memory map and the one-byte primitives (R12, R78) -/

/-- Whether a region holds an address. -/
def regionHolds (r : Region) (a : Nat) : Bool := r.base ≤ a && a < r.base + r.size

/-- What `MEMMAP` says of an address: the kind of the first region that holds it; plain RAM where none does
(log 3). -/
def kindIn : List Region → Nat → RegionKind
  | [], _ => .ram
  | r :: rs, a => if regionHolds r a then r.kind else kindIn rs a

/-- What the platform has at an address. -/
def State.kindAt (s : State) (a : Addr) : RegionKind := kindIn s.cfg.memMap a.toNat

/-- Plain memory for a read or a fetch is RAM or ROM (R78). -/
def State.readable (s : State) (a : Addr) : Bool :=
  match s.kindAt a with
  | .ram => true
  | .rom => true
  | .device => false
  | .absent => false

/-- Plain memory for a write is RAM: "A write to ROM or to an absent address has no meaning in this spec" (R78). -/
def State.writable (s : State) (a : Addr) : Bool :=
  match s.kindAt a with
  | .ram => true
  | .rom => false
  | .device => false
  | .absent => false

/-- The byte that memory holds at an address. -/
def State.byteAt (s : State) (a : Addr) : Byte := s.mem.read a.toNat

/-- `MemRead(a, 1)` (R12), refused outside plain memory (R78). -/
def readByte (s : State) (a : Addr) : Except Refusal Byte :=
  if s.readable a then .ok (s.byteAt a) else .error (.notPlainMemory a)

/-- `MemWrite(a, 1, v)` (R12), refused outside RAM (R78). -/
def writeByte (s : State) (a : Addr) (v : Byte) : Except Refusal State :=
  if s.writable a then .ok { s with mem := s.mem.write a.toNat v } else .error (.notPlainMemory a)

/-! ### Data of width 8 or 16 (R73, R76, R77) -/

/-- Where a datum lies: `ea` the address of its low byte, `ea1` of its high byte, used at width 16 only (R130). -/
structure EA where
  ea : Addr
  ea1 : Addr
  deriving DecidableEq, Repr

/-- A datum of width `w`, low byte read first (R77); at width 8 the byte with zero high bits. -/
def readDatum (s : State) (w : Width) (m : EA) : Except Refusal Word :=
  match w with
  | .w8 => do
    let lo ← readByte s m.ea
    .ok (word 0 lo)
  | .w16 => do
    let lo ← readByte s m.ea
    let hi ← readByte s m.ea1
    .ok (word hi lo)

/-- Store a datum of width `w`, low byte written first (R77); at width 8 the low byte alone (R76). -/
def writeDatum (s : State) (w : Width) (m : EA) (v : Word) : Except Refusal State :=
  match w with
  | .w8 => writeByte s m.ea (loByte v)
  | .w16 => do
    let s1 ← writeByte s m.ea (loByte v)
    writeByte s1 m.ea1 (hiByte v)

/-- A value cut to a width, with zero high bits (R10, R316). -/
def trunc : Width → Word → Word
  | .w8, v => word 0 (loByte v)
  | .w16, v => v

/-! ### Register writes by width -/

/-- Write the accumulator: `A` at width 8, `B` unchanged; `C` at width 16 (R32). -/
def State.putA (s : State) (w : Width) (v : Word) : State :=
  match w with
  | .w8 => { s with a := loByte v }
  | .w16 => { s with a := loByte v, b := hiByte v }

/-- `C <- v` (R11). -/
def State.putC (s : State) (v : Word) : State := { s with a := loByte v, b := hiByte v }

/-- Write `X`: at width 8 the zero-extended low byte (R34). -/
def State.putX (s : State) (w : Width) (v : Word) : State := { s with x := trunc w v }

/-- Write `Y`: at width 8 the zero-extended low byte (R34). -/
def State.putY (s : State) (w : Width) (v : Word) : State := { s with y := trunc w v }

/-- `PC <- (PC + len) mod 2^16` (R46, R107). -/
def State.advance (s : State) (len : Nat) : State := { s with pc := s.pc + BitVec.ofNat 16 len }

/-! ### Outcomes -/

/-- A meaning's result as the outcome of a step: a next state or a refusal, never a fault. -/
def finish : Except Refusal State → Host.Outcome State Fault Refusal
  | .ok s => .next s
  | .error r => .refused r

/-- An instruction whose opcode `b0` some variant lacks runs where it is available and is refused elsewhere
(R111; log 7). -/
def requireOn (av : Avail) (b0 : Byte) (s : State) (k : Except Refusal State) : Except Refusal State :=
  if av.allows s.cfg.variant then k else .error (.opcodeNotAvailable b0 s.cfg.variant)

/-! ### The load, store and immediate shapes -/

/-- LDA through memory (R170): find the address, read the datum, write `A` or `C`, set n and z. -/
def loadA (len : Nat) (mode : Except Refusal EA) (s : State) : Except Refusal State := do
  let m ← mode
  let v ← readDatum s s.wA m
  .ok (((s.putA s.wA v).putNZ s.wA v).advance len)

/-- LDX through memory (R190). -/
def loadX (len : Nat) (mode : Except Refusal EA) (s : State) : Except Refusal State := do
  let m ← mode
  let v ← readDatum s s.wI m
  .ok (((s.putX s.wI v).putNZ s.wI v).advance len)

/-- LDY through memory (R200). -/
def loadY (len : Nat) (mode : Except Refusal EA) (s : State) : Except Refusal State := do
  let m ← mode
  let v ← readDatum s s.wI m
  .ok (((s.putY s.wI v).putNZ s.wI v).advance len)

/-- A store of a `w`-bit value (R210, R230, R240, R250): find the address, write the datum; no flag, no register. -/
def store (len : Nat) (w : Width) (v : Word) (mode : Except Refusal EA) (s : State) : Except Refusal State := do
  let m ← mode
  let t ← writeDatum s w m v
  .ok (t.advance len)

/-- `LDA #const` (R172): the datum is the operand at the accumulator width; the length follows it (R105). -/
def loadImmA (k : Word) (s : State) : State :=
  ((s.putA s.wA k).putNZ s.wA k).advance (immLength s.wA)

/-- `LDX #const` (R192). -/
def loadImmX (k : Word) (s : State) : State :=
  ((s.putX s.wI k).putNZ s.wI k).advance (immLength s.wI)

/-- `LDY #const` (R202). -/
def loadImmY (k : Word) (s : State) : State :=
  ((s.putY s.wI k).putNZ s.wI k).advance (immLength s.wI)

end Sys2Proof.Machine
end

