-- ==== Sys2Proof/Machine/Operands.lean ====
section
/-!
DEFINITION. The addressing modes (R130 to R149): where the datum of each mode lies, with the pointer reads of the
indirect modes and the emulation-mode corners of R151. No mode changes a register (R130). The formulas are the
spec's decisions D16 to D18 (assumption log 16).
-/

namespace Sys2Proof.Machine

/-! ### Direct Page addresses (R131) -/

/-- `dpa(off)`: in emulation mode with `DL` = 0 it wraps inside the page, else inside bank 0. An offset counts modulo
2^16, which both formulas of R131 only look at. -/
def State.dpa (s : State) (off : Word) : Addr :=
  if s.eFlag && loByte s.dReg == 0 then s.a24 0 (word (hiByte s.dReg) (loByte off))
  else s.a24 0 (s.dReg + off)

/-- `dpl(off)`, used by the `[dp]` modes: it always wraps inside bank 0. -/
def State.dpl (s : State) (off : Word) : Addr := s.a24 0 (s.dReg + off)

/-- An 8-bit unsigned operand as an offset (R106). -/
def offset (o : Byte) : Word := o.setWidth 16

/-! ### Pointer reads (R132) -/

/-- `ptr16(a0, a1)`, `a0` read first. -/
def ptr16 (s : State) (a0 a1 : Addr) : Except Refusal Word := do
  let lo ← readByte s a0
  let hi ← readByte s a1
  .ok (word hi lo)

/-- `ptr24(a0, a1, a2)`, read in that order. -/
def ptr24 (s : State) (a0 a1 a2 : Addr) : Except Refusal Addr := do
  let lo ← readByte s a0
  let hi ← readByte s a1
  let bank ← readByte s a2
  .ok (long bank hi lo)

/-! ### The corners of emulation mode (R151) -/

/-- `V` = 65816, `e` = 1 and `EMU_DP_CORNERS` = `refuse`: where R151 applies. -/
def State.cornersRefused (s : State) : Bool :=
  s.is65816 && s.e && s.cfg.emuDpCorners == .refuse

/-- R151 (a): a two-byte pointer at Direct Page offset `off` would straddle a page boundary, by the non-wrapping
formula `(D + off) mod 2^16`. -/
def State.straddles16 (s : State) (off : Word) : Bool := (loByte (s.dReg + off)).toNat = 0xFF

/-- R151 (b): a three-byte pointer at `off` would straddle a page boundary. -/
def State.straddles24 (s : State) (off : Word) : Bool := 0xFE ≤ (loByte (s.dReg + off)).toNat

/-- R151 (c): `n` bytes from `S + sr` would leave page 1. -/
def State.leavesPage1 (s : State) (sr : Byte) (n : Nat) : Bool := 0xFF < (loByte s.s).toNat + sr.toNat + (n - 1)

/-- Refuse a two-byte Direct Page pointer in R151's corner (a). -/
def guard16 (s : State) (off : Word) (k : Except Refusal EA) : Except Refusal EA :=
  if s.cornersRefused && s.straddles16 off then .error .emuPointerWrap else k

/-- Refuse a three-byte Direct Page pointer in R151's corner (b). -/
def guard24 (s : State) (off : Word) (k : Except Refusal EA) : Except Refusal EA :=
  if s.cornersRefused && s.straddles24 off then .error .emuPointerWrap else k

/-- Refuse an access of `n` bytes at `S + sr` in R151's corner (c). -/
def guardSr (s : State) (sr : Byte) (n : Nat) (k : Except Refusal EA) : Except Refusal EA :=
  if s.cornersRefused && s.leavesPage1 sr n then .error .emuStackRelative else k

/-! ### The modes -/

/-- Immediate (R133): where the operand bytes stand. The meanings take the datum from the decoded operand. -/
def eaImm (s : State) : EA := ⟨s.a24 s.pbrReg (s.pc + 1), s.a24 s.pbrReg (s.pc + 2)⟩

/-- `ea` with `ea1 = lin(ea, 1)`: the linear modes (R87). -/
def linear (s : State) (ea : Addr) : EA := ⟨ea, s.lin ea 1⟩

/-- Absolute (R134). -/
def eaAbs (addr : Word) (s : State) : EA := linear s (s.a24 s.dbrReg addr)

/-- Absolute Long (R135). -/
def eaLong (long : Addr) (s : State) : EA := linear s long

/-- Absolute indexed by a value: the shared form of R139 and R141. -/
def eaAbsIdx (addr idx : Word) (s : State) : EA := linear s (s.lin (s.a24 s.dbrReg addr) idx)

/-- Absolute Indexed X (R139). -/
def eaAbsX (addr : Word) (s : State) : EA := eaAbsIdx addr s.x s

/-- Absolute Indexed Y (R141). -/
def eaAbsY (addr : Word) (s : State) : EA := eaAbsIdx addr s.y s

/-- Absolute Long Indexed X (R140). -/
def eaLongX (long : Addr) (s : State) : EA := linear s (s.lin long s.x)

/-- Direct Page at an offset: the shared form of R136, R142 and R143. -/
def eaDpOff (off : Word) (s : State) : EA := ⟨s.dpa off, s.dpa (off + 1)⟩

/-- Direct Page (R136). -/
def eaDp (dp : Byte) (s : State) : EA := eaDpOff (offset dp) s

/-- Direct Page Indexed X (R142). -/
def eaDpX (dp : Byte) (s : State) : EA := eaDpOff (offset dp + s.x) s

/-- Direct Page Indexed Y (R143). -/
def eaDpY (dp : Byte) (s : State) : EA := eaDpOff (offset dp + s.y) s

/-- A 16-bit pointer in the Direct Page, the datum in bank `DBR`: the shared form of R137 and R144. -/
def eaPtr (off : Word) (s : State) : Except Refusal EA :=
  guard16 s off do
    let p ← ptr16 s (s.dpa off) (s.dpa (off + 1))
    .ok (linear s (s.a24 s.dbrReg p))

/-- Direct Page Indirect (R137). -/
def eaDpInd (dp : Byte) (s : State) : Except Refusal EA := eaPtr (offset dp) s

/-- Direct Page Indexed Indirect X (R144): the index is added before the pointer is read. -/
def eaDpXInd (dp : Byte) (s : State) : Except Refusal EA := eaPtr (offset dp + s.x) s

/-- Direct Page Indirect Indexed Y (R145): the index is added after the pointer is read. -/
def eaDpIndY (dp : Byte) (s : State) : Except Refusal EA :=
  guard16 s (offset dp) do
    let p ← ptr16 s (s.dpa (offset dp)) (s.dpa (offset dp + 1))
    .ok (linear s (s.lin (s.a24 s.dbrReg p) s.y))

/-- Direct Page Indirect Long (R138): a 24-bit pointer in bank 0; `DBR` is not used. -/
def eaDpIndLong (dp : Byte) (s : State) : Except Refusal EA :=
  guard24 s (offset dp) do
    let p ← ptr24 s (s.dpl (offset dp)) (s.dpl (offset dp + 1)) (s.dpl (offset dp + 2))
    .ok (linear s p)

/-- Direct Page Indirect Long Indexed Y (R146). -/
def eaDpIndLongY (dp : Byte) (s : State) : Except Refusal EA :=
  guard24 s (offset dp) do
    let p ← ptr24 s (s.dpl (offset dp)) (s.dpl (offset dp + 1)) (s.dpl (offset dp + 2))
    .ok (linear s (s.lin p s.y))

/-- Stack Relative (R147): bank 0, a full 16-bit sum. -/
def eaSr (sr : Byte) (s : State) : Except Refusal EA :=
  guardSr s sr 1 (.ok ⟨s.a24 0 (s.s + offset sr), s.a24 0 (s.s + offset sr + 1)⟩)

/-- Stack Relative Indirect Indexed Y (R148): the pointer on the stack in bank 0, the datum in bank `DBR`. -/
def eaSrIndY (sr : Byte) (s : State) : Except Refusal EA :=
  guardSr s sr 2 do
    let p ← ptr16 s (s.a24 0 (s.s + offset sr)) (s.a24 0 (s.s + offset sr + 1))
    .ok (linear s (s.lin (s.a24 s.dbrReg p) s.y))

/-- The absolute indexed mode of opcode BE: Y by default, X under `LDX_INDEX` = `X` (R191, R195; log 10). -/
def eaLdxAbs (addr : Word) (s : State) : EA :=
  match s.cfg.ldxIndex with
  | .y => eaAbsY addr s
  | .x => eaAbsX addr s

/-- The Direct Page indexed mode of opcode B6: Y by default, X under `LDX_INDEX` = `X` (R191, R196; log 10). -/
def eaLdxDp (dp : Byte) (s : State) : EA :=
  match s.cfg.ldxIndex with
  | .y => eaDpY dp s
  | .x => eaDpX dp s

end Sys2Proof.Machine
end

