-- ==== Sys2Proof/Machine/Lda.lean ====
section
/-!
DEFINITION. The 15 LDA opcodes (R170 to R186).
-/

namespace Sys2Proof.Machine

/-- `LDA #const`, opcode A9: Immediate (R172). -/
def execLdaImm (const : Word) (s : State) : Host.Outcome State Fault Refusal :=
  finish <| .ok (loadImmA const s)

/-- `LDA addr`, opcode AD: Absolute (R173). -/
def execLdaAbs (addr : Word) (s : State) : Host.Outcome State Fault Refusal :=
  finish <| loadA 3 (.ok (eaAbs addr s)) s

/-- `LDA long`, opcode AF: Absolute Long (R174). -/
def execLdaLong (long : Addr) (s : State) : Host.Outcome State Fault Refusal :=
  finish <| requireOn .only65816 0xAF s <| loadA 4 (.ok (eaLong long s)) s

/-- `LDA dp`, opcode A5: Direct Page (R175). -/
def execLdaDp (dp : Byte) (s : State) : Host.Outcome State Fault Refusal :=
  finish <| loadA 2 (.ok (eaDp dp s)) s

/-- `LDA (dp)`, opcode B2: Direct Page Indirect (R176). -/
def execLdaDpInd (dp : Byte) (s : State) : Host.Outcome State Fault Refusal :=
  finish <| requireOn .from65C02 0xB2 s <| loadA 2 (eaDpInd dp s) s

/-- `LDA [dp]`, opcode A7: Direct Page Indirect Long (R177). -/
def execLdaDpIndLong (dp : Byte) (s : State) : Host.Outcome State Fault Refusal :=
  finish <| requireOn .only65816 0xA7 s <| loadA 2 (eaDpIndLong dp s) s

/-- `LDA addr,X`, opcode BD: Absolute Indexed X (R178). -/
def execLdaAbsX (addr : Word) (s : State) : Host.Outcome State Fault Refusal :=
  finish <| loadA 3 (.ok (eaAbsX addr s)) s

/-- `LDA long,X`, opcode BF: Absolute Long Indexed X (R179). -/
def execLdaLongX (long : Addr) (s : State) : Host.Outcome State Fault Refusal :=
  finish <| requireOn .only65816 0xBF s <| loadA 4 (.ok (eaLongX long s)) s

/-- `LDA addr,Y`, opcode B9: Absolute Indexed Y (R180). -/
def execLdaAbsY (addr : Word) (s : State) : Host.Outcome State Fault Refusal :=
  finish <| loadA 3 (.ok (eaAbsY addr s)) s

/-- `LDA dp,X`, opcode B5: Direct Page Indexed X (R181). -/
def execLdaDpX (dp : Byte) (s : State) : Host.Outcome State Fault Refusal :=
  finish <| loadA 2 (.ok (eaDpX dp s)) s

/-- `LDA (dp,X)`, opcode A1: Direct Page Indexed Indirect X (R182). -/
def execLdaDpXInd (dp : Byte) (s : State) : Host.Outcome State Fault Refusal :=
  finish <| loadA 2 (eaDpXInd dp s) s

/-- `LDA (dp),Y`, opcode B1: Direct Page Indirect Indexed Y (R183). -/
def execLdaDpIndY (dp : Byte) (s : State) : Host.Outcome State Fault Refusal :=
  finish <| loadA 2 (eaDpIndY dp s) s

/-- `LDA [dp],Y`, opcode B7: Direct Page Indirect Long Indexed Y (R184). -/
def execLdaDpIndLongY (dp : Byte) (s : State) : Host.Outcome State Fault Refusal :=
  finish <| requireOn .only65816 0xB7 s <| loadA 2 (eaDpIndLongY dp s) s

/-- `LDA sr,S`, opcode A3: Stack Relative (R185). -/
def execLdaSr (sr : Byte) (s : State) : Host.Outcome State Fault Refusal :=
  finish <| requireOn .only65816 0xA3 s <| loadA 2 (eaSr sr s) s

/-- `LDA (sr,S),Y`, opcode B3: Stack Relative Indirect Indexed Y (R186). -/
def execLdaSrIndY (sr : Byte) (s : State) : Host.Outcome State Fault Refusal :=
  finish <| requireOn .only65816 0xB3 s <| loadA 2 (eaSrIndY sr s) s

end Sys2Proof.Machine
end

