-- ==== Sys2Proof/Machine/Ldx.lean ====
section
/-!
DEFINITION. The 5 LDX opcodes (R190 to R196).
-/

namespace Sys2Proof.Machine

/-- `LDX #const`, opcode A2: Immediate (R192). -/
def execLdxImm (const : Word) (s : State) : Host.Outcome State Fault Refusal :=
  finish <| .ok (loadImmX const s)

/-- `LDX addr`, opcode AE: Absolute (R193). -/
def execLdxAbs (addr : Word) (s : State) : Host.Outcome State Fault Refusal :=
  finish <| loadX 3 (.ok (eaAbs addr s)) s

/-- `LDX dp`, opcode A6: Direct Page (R194). -/
def execLdxDp (dp : Byte) (s : State) : Host.Outcome State Fault Refusal :=
  finish <| loadX 2 (.ok (eaDp dp s)) s

/-- `LDX addr,Y`, opcode BE: Absolute Indexed Y (R195). -/
def execLdxAbsY (addr : Word) (s : State) : Host.Outcome State Fault Refusal :=
  finish <| loadX 3 (.ok (eaLdxAbs addr s)) s

/-- `LDX dp,Y`, opcode B6: Direct Page Indexed Y (R196). -/
def execLdxDpY (dp : Byte) (s : State) : Host.Outcome State Fault Refusal :=
  finish <| loadX 2 (.ok (eaLdxDp dp s)) s

end Sys2Proof.Machine
end

