-- ==== Sys2Proof/Machine/Ldy.lean ====
section
/-!
DEFINITION. The 5 LDY opcodes (R200 to R206).
-/

namespace Sys2Proof.Machine

/-- `LDY #const`, opcode A0: Immediate (R202). -/
def execLdyImm (const : Word) (s : State) : Host.Outcome State Fault Refusal :=
  finish <| .ok (loadImmY const s)

/-- `LDY addr`, opcode AC: Absolute (R203). -/
def execLdyAbs (addr : Word) (s : State) : Host.Outcome State Fault Refusal :=
  finish <| loadY 3 (.ok (eaAbs addr s)) s

/-- `LDY dp`, opcode A4: Direct Page (R204). -/
def execLdyDp (dp : Byte) (s : State) : Host.Outcome State Fault Refusal :=
  finish <| loadY 2 (.ok (eaDp dp s)) s

/-- `LDY addr,X`, opcode BC: Absolute Indexed X (R205). -/
def execLdyAbsX (addr : Word) (s : State) : Host.Outcome State Fault Refusal :=
  finish <| loadY 3 (.ok (eaAbsX addr s)) s

/-- `LDY dp,X`, opcode B4: Direct Page Indexed X (R206). -/
def execLdyDpX (dp : Byte) (s : State) : Host.Outcome State Fault Refusal :=
  finish <| loadY 2 (.ok (eaDpX dp s)) s

end Sys2Proof.Machine
end

