-- ==== Sys2Proof/Machine/Sta.lean ====
section
/-!
DEFINITION. The 14 STA opcodes (R210 to R225). The value stored is `C`; at width 8 only its low byte `A` is stored.
-/

namespace Sys2Proof.Machine

/-- `STA addr`, opcode 8D: Absolute (R212). -/
def execStaAbs (addr : Word) (s : State) : Host.Outcome State Fault Refusal :=
  finish <| store 3 s.wA s.c (.ok (eaAbs addr s)) s

/-- `STA long`, opcode 8F: Absolute Long (R213). -/
def execStaLong (long : Addr) (s : State) : Host.Outcome State Fault Refusal :=
  finish <| requireOn .only65816 0x8F s <| store 4 s.wA s.c (.ok (eaLong long s)) s

/-- `STA dp`, opcode 85: Direct Page (R214). -/
def execStaDp (dp : Byte) (s : State) : Host.Outcome State Fault Refusal :=
  finish <| store 2 s.wA s.c (.ok (eaDp dp s)) s

/-- `STA (dp)`, opcode 92: Direct Page Indirect (R215). -/
def execStaDpInd (dp : Byte) (s : State) : Host.Outcome State Fault Refusal :=
  finish <| requireOn .from65C02 0x92 s <| store 2 s.wA s.c (eaDpInd dp s) s

/-- `STA [dp]`, opcode 87: Direct Page Indirect Long (R216). -/
def execStaDpIndLong (dp : Byte) (s : State) : Host.Outcome State Fault Refusal :=
  finish <| requireOn .only65816 0x87 s <| store 2 s.wA s.c (eaDpIndLong dp s) s

/-- `STA addr,X`, opcode 9D: Absolute Indexed X (R217). -/
def execStaAbsX (addr : Word) (s : State) : Host.Outcome State Fault Refusal :=
  finish <| store 3 s.wA s.c (.ok (eaAbsX addr s)) s

/-- `STA long,X`, opcode 9F: Absolute Long Indexed X (R218). -/
def execStaLongX (long : Addr) (s : State) : Host.Outcome State Fault Refusal :=
  finish <| requireOn .only65816 0x9F s <| store 4 s.wA s.c (.ok (eaLongX long s)) s

/-- `STA addr,Y`, opcode 99: Absolute Indexed Y (R219). -/
def execStaAbsY (addr : Word) (s : State) : Host.Outcome State Fault Refusal :=
  finish <| store 3 s.wA s.c (.ok (eaAbsY addr s)) s

/-- `STA dp,X`, opcode 95: Direct Page Indexed X (R220). -/
def execStaDpX (dp : Byte) (s : State) : Host.Outcome State Fault Refusal :=
  finish <| store 2 s.wA s.c (.ok (eaDpX dp s)) s

/-- `STA (dp,X)`, opcode 81: Direct Page Indexed Indirect X (R221). -/
def execStaDpXInd (dp : Byte) (s : State) : Host.Outcome State Fault Refusal :=
  finish <| store 2 s.wA s.c (eaDpXInd dp s) s

/-- `STA (dp),Y`, opcode 91: Direct Page Indirect Indexed Y (R222). -/
def execStaDpIndY (dp : Byte) (s : State) : Host.Outcome State Fault Refusal :=
  finish <| store 2 s.wA s.c (eaDpIndY dp s) s

/-- `STA [dp],Y`, opcode 97: Direct Page Indirect Long Indexed Y (R223). -/
def execStaDpIndLongY (dp : Byte) (s : State) : Host.Outcome State Fault Refusal :=
  finish <| requireOn .only65816 0x97 s <| store 2 s.wA s.c (eaDpIndLongY dp s) s

/-- `STA sr,S`, opcode 83: Stack Relative (R224). -/
def execStaSr (sr : Byte) (s : State) : Host.Outcome State Fault Refusal :=
  finish <| requireOn .only65816 0x83 s <| store 2 s.wA s.c (eaSr sr s) s

/-- `STA (sr,S),Y`, opcode 93: Stack Relative Indirect Indexed Y (R225). -/
def execStaSrIndY (sr : Byte) (s : State) : Host.Outcome State Fault Refusal :=
  finish <| requireOn .only65816 0x93 s <| store 2 s.wA s.c (eaSrIndY sr s) s

end Sys2Proof.Machine
end

