-- ==== Sys2Proof/Machine/Stx.lean ====
section
/-!
DEFINITION. The 3 STX opcodes (R230 to R234).
-/

namespace Sys2Proof.Machine

/-- `STX addr`, opcode 8E: Absolute (R232). -/
def execStxAbs (addr : Word) (s : State) : Host.Outcome State Fault Refusal :=
  finish <| store 3 s.wI s.x (.ok (eaAbs addr s)) s

/-- `STX dp`, opcode 86: Direct Page (R233). -/
def execStxDp (dp : Byte) (s : State) : Host.Outcome State Fault Refusal :=
  finish <| store 2 s.wI s.x (.ok (eaDp dp s)) s

/-- `STX dp,Y`, opcode 96: Direct Page Indexed Y (R234). -/
def execStxDpY (dp : Byte) (s : State) : Host.Outcome State Fault Refusal :=
  finish <| store 2 s.wI s.x (.ok (eaDpY dp s)) s

end Sys2Proof.Machine
end

