-- ==== Sys2Proof/Machine/Sty.lean ====
section
/-!
DEFINITION. The 3 STY opcodes (R240 to R244).
-/

namespace Sys2Proof.Machine

/-- `STY addr`, opcode 8C: Absolute (R242). -/
def execStyAbs (addr : Word) (s : State) : Host.Outcome State Fault Refusal :=
  finish <| store 3 s.wI s.y (.ok (eaAbs addr s)) s

/-- `STY dp`, opcode 84: Direct Page (R243). -/
def execStyDp (dp : Byte) (s : State) : Host.Outcome State Fault Refusal :=
  finish <| store 2 s.wI s.y (.ok (eaDp dp s)) s

/-- `STY dp,X`, opcode 94: Direct Page Indexed X (R244). -/
def execStyDpX (dp : Byte) (s : State) : Host.Outcome State Fault Refusal :=
  finish <| store 2 s.wI s.y (.ok (eaDpX dp s)) s

end Sys2Proof.Machine
end

