-- ==== Sys2Proof/Machine/Stz.lean ====
section
/-!
DEFINITION. The 4 STZ opcodes (R250 to R255).
-/

namespace Sys2Proof.Machine

/-- `STZ addr`, opcode 9C: Absolute (R252). -/
def execStzAbs (addr : Word) (s : State) : Host.Outcome State Fault Refusal :=
  finish <| requireOn .from65C02 0x9C s <| store 3 s.wA 0 (.ok (eaAbs addr s)) s

/-- `STZ dp`, opcode 64: Direct Page (R253). -/
def execStzDp (dp : Byte) (s : State) : Host.Outcome State Fault Refusal :=
  finish <| requireOn .from65C02 0x64 s <| store 2 s.wA 0 (.ok (eaDp dp s)) s

/-- `STZ addr,X`, opcode 9E: Absolute Indexed X (R254). -/
def execStzAbsX (addr : Word) (s : State) : Host.Outcome State Fault Refusal :=
  finish <| requireOn .from65C02 0x9E s <| store 3 s.wA 0 (.ok (eaAbsX addr s)) s

/-- `STZ dp,X`, opcode 74: Direct Page Indexed X (R255). -/
def execStzDpX (dp : Byte) (s : State) : Host.Outcome State Fault Refusal :=
  finish <| requireOn .from65C02 0x74 s <| store 2 s.wA 0 (.ok (eaDpX dp s)) s

end Sys2Proof.Machine
end

