-- ==== Sys2Proof/Machine/Transfer.lean ====
section
/-!
DEFINITION. The twelve transfers and XBA (R258 to R272): one byte long, no data access. The width of a transfer is
the width of its destination (R259); n and z are those of the value transferred at that width, except for TCS and
TXS, which write no flag.
-/

namespace Sys2Proof.Machine

/-- `TAX` (R260): `X` takes `A` at `wX` = 8 and `C` at `wX` = 16. -/
def execTax (s : State) : Host.Outcome State Fault Refusal :=
  finish <| .ok (((s.putX s.wX s.c).putNZ s.wX s.c).advance 1)

/-- `TAY` (R261): `Y` takes `A` at `wX` = 8 and `C` at `wX` = 16. -/
def execTay (s : State) : Host.Outcome State Fault Refusal :=
  finish <| .ok (((s.putY s.wX s.c).putNZ s.wX s.c).advance 1)

/-- `TCD` (R262): 16 bits whatever `P.m` and `e` are. -/
def execTcd (s : State) : Host.Outcome State Fault Refusal :=
  finish <| requireOn .only65816 0x5B s <| .ok ((({ s with d := s.c } : State).putNZ .w16 s.c).advance 1)

/-- `TCS` (R263): in native mode `C`; in emulation mode `SL` only, unless `EMU_STACK_PAGE` is off. No flag. -/
def execTcs (s : State) : Host.Outcome State Fault Refusal :=
  finish <| requireOn .only65816 0x1B s <|
    .ok (({ s with s := if s.eFlag && s.cfg.emuStackPage then word 0x01 s.a else s.c } : State).advance 1)

/-- `TDC` (R264): `B` is written even when `wA` = 8. -/
def execTdc (s : State) : Host.Outcome State Fault Refusal :=
  finish <| requireOn .only65816 0x7B s <| .ok (((s.putC s.dReg).putNZ .w16 s.dReg).advance 1)

/-- `TSC` (R265): 16 bits whatever `P.m` and `e` are. -/
def execTsc (s : State) : Host.Outcome State Fault Refusal :=
  finish <| requireOn .only65816 0x3B s <| .ok (((s.putC s.s).putNZ .w16 s.s).advance 1)

/-- `TSX` (R266): the low byte of `S` at `wX` = 8, all of it at `wX` = 16. -/
def execTsx (s : State) : Host.Outcome State Fault Refusal :=
  finish <| .ok (((s.putX s.wX s.s).putNZ s.wX s.s).advance 1)

/-- `TXA` (R267): `A` takes the low byte at `wA` = 8, `B` kept; `C` takes `X` at `wA` = 16. -/
def execTxa (s : State) : Host.Outcome State Fault Refusal :=
  finish <| .ok (((s.putA s.wA s.x).putNZ s.wA s.x).advance 1)

/-- The value `TXS` gives `S` (R268): on the 8-bit processors and in emulation mode the low byte of `X` with the high
byte fixed at 0x01 (0x00 when `EMU_STACK_PAGE` is off); in native mode the low byte with zero at `wX` = 8, `X` at
`wX` = 16. -/
def txsValue (s : State) : Word :=
  if s.eFlag then word (if s.cfg.emuStackPage then 0x01 else 0x00) (loByte s.x)
  else trunc s.wX s.x

/-- `TXS` (R268). No flag. -/
def execTxs (s : State) : Host.Outcome State Fault Refusal :=
  finish <| .ok (({ s with s := txsValue s } : State).advance 1)

/-- `TXY` (R269): all 16 bits of the container; the flags at `wX`. -/
def execTxy (s : State) : Host.Outcome State Fault Refusal :=
  finish <| requireOn .only65816 0x9B s <| .ok ((({ s with y := s.x } : State).putNZ s.wX s.x).advance 1)

/-- `TYA` (R270): `A` takes the low byte at `wA` = 8, `B` kept; `C` takes `Y` at `wA` = 16. -/
def execTya (s : State) : Host.Outcome State Fault Refusal :=
  finish <| .ok (((s.putA s.wA s.y).putNZ s.wA s.y).advance 1)

/-- `TYX` (R271): all 16 bits of the container; the flags at `wX`. -/
def execTyx (s : State) : Host.Outcome State Fault Refusal :=
  finish <| requireOn .only65816 0xBB s <| .ok ((({ s with x := s.y } : State).putNZ s.wX s.y).advance 1)

/-- `XBA` (R272): `A` and `B` change places; the flags are those of the new 8-bit `A` at any width. -/
def execXba (s : State) : Host.Outcome State Fault Refusal :=
  finish <| requireOn .only65816 0xEB s <|
    .ok ((({ s with a := s.b, b := s.a } : State).putNZ .w8 (word 0 s.b)).advance 1)

end Sys2Proof.Machine
end

