-- ==== Sys2Proof/Machine/Dispatch.lean ====
section
/-!
DEFINITION. The meaning of every instruction: one arm per constructor of `Instr`, each one direct call.
-/

namespace Sys2Proof.Machine

/-- What an instruction does to a state. -/
def exec (i : Instr) (s : State) : Host.Outcome State Fault Refusal :=
  match i with
  | .ldaImm o => Sys2Proof.Machine.execLdaImm o s
  | .ldaAbs o => Sys2Proof.Machine.execLdaAbs o s
  | .ldaLong o => Sys2Proof.Machine.execLdaLong o s
  | .ldaDp o => Sys2Proof.Machine.execLdaDp o s
  | .ldaDpInd o => Sys2Proof.Machine.execLdaDpInd o s
  | .ldaDpIndLong o => Sys2Proof.Machine.execLdaDpIndLong o s
  | .ldaAbsX o => Sys2Proof.Machine.execLdaAbsX o s
  | .ldaLongX o => Sys2Proof.Machine.execLdaLongX o s
  | .ldaAbsY o => Sys2Proof.Machine.execLdaAbsY o s
  | .ldaDpX o => Sys2Proof.Machine.execLdaDpX o s
  | .ldaDpXInd o => Sys2Proof.Machine.execLdaDpXInd o s
  | .ldaDpIndY o => Sys2Proof.Machine.execLdaDpIndY o s
  | .ldaDpIndLongY o => Sys2Proof.Machine.execLdaDpIndLongY o s
  | .ldaSr o => Sys2Proof.Machine.execLdaSr o s
  | .ldaSrIndY o => Sys2Proof.Machine.execLdaSrIndY o s
  | .ldxImm o => Sys2Proof.Machine.execLdxImm o s
  | .ldxAbs o => Sys2Proof.Machine.execLdxAbs o s
  | .ldxDp o => Sys2Proof.Machine.execLdxDp o s
  | .ldxAbsY o => Sys2Proof.Machine.execLdxAbsY o s
  | .ldxDpY o => Sys2Proof.Machine.execLdxDpY o s
  | .ldyImm o => Sys2Proof.Machine.execLdyImm o s
  | .ldyAbs o => Sys2Proof.Machine.execLdyAbs o s
  | .ldyDp o => Sys2Proof.Machine.execLdyDp o s
  | .ldyAbsX o => Sys2Proof.Machine.execLdyAbsX o s
  | .ldyDpX o => Sys2Proof.Machine.execLdyDpX o s
  | .staAbs o => Sys2Proof.Machine.execStaAbs o s
  | .staLong o => Sys2Proof.Machine.execStaLong o s
  | .staDp o => Sys2Proof.Machine.execStaDp o s
  | .staDpInd o => Sys2Proof.Machine.execStaDpInd o s
  | .staDpIndLong o => Sys2Proof.Machine.execStaDpIndLong o s
  | .staAbsX o => Sys2Proof.Machine.execStaAbsX o s
  | .staLongX o => Sys2Proof.Machine.execStaLongX o s
  | .staAbsY o => Sys2Proof.Machine.execStaAbsY o s
  | .staDpX o => Sys2Proof.Machine.execStaDpX o s
  | .staDpXInd o => Sys2Proof.Machine.execStaDpXInd o s
  | .staDpIndY o => Sys2Proof.Machine.execStaDpIndY o s
  | .staDpIndLongY o => Sys2Proof.Machine.execStaDpIndLongY o s
  | .staSr o => Sys2Proof.Machine.execStaSr o s
  | .staSrIndY o => Sys2Proof.Machine.execStaSrIndY o s
  | .stxAbs o => Sys2Proof.Machine.execStxAbs o s
  | .stxDp o => Sys2Proof.Machine.execStxDp o s
  | .stxDpY o => Sys2Proof.Machine.execStxDpY o s
  | .styAbs o => Sys2Proof.Machine.execStyAbs o s
  | .styDp o => Sys2Proof.Machine.execStyDp o s
  | .styDpX o => Sys2Proof.Machine.execStyDpX o s
  | .stzAbs o => Sys2Proof.Machine.execStzAbs o s
  | .stzDp o => Sys2Proof.Machine.execStzDp o s
  | .stzAbsX o => Sys2Proof.Machine.execStzAbsX o s
  | .stzDpX o => Sys2Proof.Machine.execStzDpX o s
  | .tax => Sys2Proof.Machine.execTax s
  | .tay => Sys2Proof.Machine.execTay s
  | .tcd => Sys2Proof.Machine.execTcd s
  | .tcs => Sys2Proof.Machine.execTcs s
  | .tdc => Sys2Proof.Machine.execTdc s
  | .tsc => Sys2Proof.Machine.execTsc s
  | .tsx => Sys2Proof.Machine.execTsx s
  | .txa => Sys2Proof.Machine.execTxa s
  | .txs => Sys2Proof.Machine.execTxs s
  | .txy => Sys2Proof.Machine.execTxy s
  | .tya => Sys2Proof.Machine.execTya s
  | .tyx => Sys2Proof.Machine.execTyx s
  | .xba => Sys2Proof.Machine.execXba s

end Sys2Proof.Machine
end

