-- ==== Sys2Proof/Machine/Fetch.lean ====
section
/-!
DEFINITION. Fetching an instruction (R107): its bytes at `{PBR, PC}` upward, the offset wrapping in the bank (R46),
looked up, read to their length, and decoded in the widths in force (R105, R108).
-/

namespace Sys2Proof.Machine

/-- The address `k` bytes after the offset `base` in the program bank, `{PBR, (base + k) mod 2^16}` (R46, R331 d). -/
def State.codeAddr (s : State) (base : Word) (k : Nat) : Addr := s.a24 s.pbrReg (base + BitVec.ofNat 16 k)

/-- The address of byte `k` of the instruction at `PC` (R46, R107). -/
def State.fetchAddr (s : State) (k : Nat) : Addr := s.codeAddr s.pc k

/-- `n` instruction bytes from byte `k` on, in rising order (R82). -/
def fetchBytes (s : State) (k : Nat) : Nat → Except Refusal (List Byte)
  | 0 => .ok []
  | n + 1 => do
    let b ← readByte s (s.fetchAddr k)
    let bs ← fetchBytes s (k + 1) n
    .ok (b :: bs)

/-- A decoder's rejection as a refusal of the step (R302). -/
def Refusal.ofReject : Reject → Refusal
  | .opcodeNotInSpec b0 => .opcodeNotInSpec b0
  | .opcodeNotAvailable b0 v => .opcodeNotAvailable b0 v
  | .truncated => .truncated

/-- The instruction at `{PBR, PC}` (R107): the opcode byte is looked up before any operand byte is fetched. With
`INTERRUPTS` = `true` there is no rule for what happens between instructions, and the fetch is refused (R303). -/
def fetchInstr (s : State) : Except Refusal Instr :=
  if s.cfg.interrupts then .error .asyncEvents
  else do
    let b0 ← readByte s (s.fetchAddr 0)
    match lookup s.cfg.variant b0 with
    | .error r => .error (Refusal.ofReject r)
    | .ok row =>
      let bs ← fetchBytes s 1 (row.shape.length s.ctx - 1)
      match decode s.ctx (b0 :: bs) with
      | .error r => .error (Refusal.ofReject r)
      | .ok (i, _) => .ok i

/-- Bytes placed in memory from byte `k` of the instruction at `PC` on, past the memory map: the load of a program
from outside the machine (assumption log 6). -/
def State.placeAt (s : State) (k : Nat) : List Byte → State
  | [] => s
  | b :: bs => State.placeAt { s with mem := s.mem.write (s.fetchAddr k).toNat b } (k + 1) bs

end Sys2Proof.Machine
end

