-- ==== Sys2Proof/Machine/Step.lean ====
section
/-!
DEFINITION. One step of the processor (R107): fetch, decode, execute. `exec` advances `PC` by the length.
-/

namespace Sys2Proof.Machine

/-- One step (R107). -/
def step (s : State) : Host.Outcome State Fault Refusal :=
  match fetchInstr s with
  | .error r => .refused r
  | .ok i => exec i s

/-- The state with an instruction's bits stored where the next step fetches (assumption log 6). -/
def State.withFetchWord (s : State) (nbits w : Nat) : State := s.placeAt 0 (tableWordBytes nbits w)

end Sys2Proof.Machine
end

