-- ==== Sys2Proof/Machine/Timing.lean ====
section
/-!
DEFINITION. The source's cycle counts (R340, R341) and the timing predicates `cross` and `dl_penalty` (R130, R131,
R139, R141, R145, R150). "Cycle counts are timing that no rule of the model depends on": this stands BESIDE the
machine; no step reads it and the state holds no clock (assumption log 20). R342's recollections of other counts
are not built in.
-/

namespace Sys2Proof.Machine

/-- `cross` of a base and an index (R139, R141, R145): the indexed address lies in another 256-byte page. -/
def crossPage (base idx : Word) : Bool := (base.toNat + idx.toNat) / 256 != base.toNat / 256

/-- `dl_penalty = (V = 65816 and DL != 0)` (R131). -/
def State.dlPenalty (s : State) : Bool := s.is65816 && loByte s.dReg != 0

/-- The index register of opcode BE (R191). -/
def State.ldxIndexReg (s : State) : Word :=
  match s.cfg.ldxIndex with
  | .y => s.y
  | .x => s.x

/-- The pointer of `(dp),Y` as memory holds it (R145). -/
def State.pointerAt (s : State) (dp : Byte) : Word :=
  word (s.byteAt (s.dpa (offset dp + 1))) (s.byteAt (s.dpa (offset dp)))

/-- `cross` of an instruction: of the five rows that carry note 4 (R150), false for every other. -/
def crossOf (s : State) : Instr → Bool
  | .ldaAbsX addr => crossPage addr s.x
  | .ldaAbsY addr => crossPage addr s.y
  | .ldaDpIndY dp => crossPage (s.pointerAt dp) s.y
  | .ldxAbsY addr => crossPage addr s.ldxIndexReg
  | .ldyAbsX addr => crossPage addr s.x
  | .ldaImm _ | .ldaAbs _ | .ldaLong _ | .ldaDp _ | .ldaDpInd _ | .ldaDpIndLong _ | .ldaLongX _ | .ldaDpX _ |
    .ldaDpXInd _ | .ldaDpIndLongY _ | .ldaSr _ | .ldaSrIndY _ | .ldxImm _ | .ldxAbs _ | .ldxDp _ | .ldxDpY _ |
    .ldyImm _ | .ldyAbs _ | .ldyDp _ | .ldyDpX _ | .staAbs _ | .staLong _ | .staDp _ | .staDpInd _ |
    .staDpIndLong _ | .staAbsX _ | .staLongX _ | .staAbsY _ | .staDpX _ | .staDpXInd _ | .staDpIndY _ |
    .staDpIndLongY _ | .staSr _ | .staSrIndY _ | .stxAbs _ | .stxDp _ | .stxDpY _ | .styAbs _ | .styDp _ |
    .styDpX _ | .stzAbs _ | .stzDp _ | .stzAbsX _ | .stzDpX _ | .tax | .tay | .tcd | .tcs | .tdc | .tsc |
    .tsx | .txa | .txs | .txy | .tya | .tyx | .xba => false

/-- The datum width of an instruction (R341): `wA` for LDA, STA, STZ, the index datum width for LDX, LDY, STX, STY.
A transfer's row has no width note, so its value here is not read. -/
def datumWidth (s : State) : Instr → Width
  | .ldxImm _ | .ldxAbs _ | .ldxDp _ | .ldxAbsY _ | .ldxDpY _ | .ldyImm _ | .ldyAbs _ | .ldyDp _ | .ldyAbsX _ |
    .ldyDpX _ | .stxAbs _ | .stxDp _ | .stxDpY _ | .styAbs _ | .styDp _ | .styDpX _ => s.wI
  | .ldaImm _ | .ldaAbs _ | .ldaLong _ | .ldaDp _ | .ldaDpInd _ | .ldaDpIndLong _ | .ldaAbsX _ | .ldaLongX _ |
    .ldaAbsY _ | .ldaDpX _ | .ldaDpXInd _ | .ldaDpIndY _ | .ldaDpIndLongY _ | .ldaSr _ | .ldaSrIndY _ |
    .staAbs _ | .staLong _ | .staDp _ | .staDpInd _ | .staDpIndLong _ | .staAbsX _ | .staLongX _ | .staAbsY _ |
    .staDpX _ | .staDpXInd _ | .staDpIndY _ | .staDpIndLongY _ | .staSr _ | .staSrIndY _ | .stzAbs _ |
    .stzDp _ | .stzAbsX _ | .stzDpX _ | .tax | .tay | .tcd | .tcs | .tdc | .tsc | .tsx | .txa | .txs | .txy |
    .tya | .tyx | .xba => s.wA

/-- The row carries the width note "W" (R341). -/
def notesHasW : Notes → Bool
  | .none => false
  | .w | .wd | .wp | .wdp => true

/-- The row carries the Direct Page note "D" (R341). -/
def notesHasD : Notes → Bool
  | .none | .w | .wp => false
  | .wd | .wdp => true

/-- The row carries the page-crossing note "P" (R341). -/
def notesHasP : Notes → Bool
  | .none | .w | .wd => false
  | .wp | .wdp => true

/-- The base cycle count of an instruction: its table row's "# of cycles" (R341). -/
def baseCycles (i : Instr) : Nat :=
  match rowOf i.opcode with
  | some r => r.cycles
  | none => 0

/-- The notes of an instruction's table row. -/
def notesOf (i : Instr) : Notes :=
  match rowOf i.opcode with
  | some r => r.notes
  | none => .none

/-- The source's cycle count of an instruction in a state (R341). -/
def cycles (i : Instr) (s : State) : Nat :=
  baseCycles i
    + (if notesHasW (notesOf i) && s.is65816 && datumWidth s i == .w16 then 1 else 0)
    + (if notesHasD (notesOf i) && s.dlPenalty then 1 else 0)
    + (if notesHasP (notesOf i) && crossOf s i then 1 else 0)

end Sys2Proof.Machine
end

