-- ==== Sys2Proof/Safety.lean ====
section
/-!
DEFINITION. What a claim may assume of a launch state (R47, R331), what the machine keeps (the invariant), how a run
ends (R333), and the words the statements use: what "the flags follow the value" and "nothing else changes" mean.
-/

namespace Sys2Proof.Machine

/-! ### Well-formed states (R47) and the invariant -/

/-- `WellFormed` (R47): (a) on the 8-bit processors, (b) on the 65816 in emulation mode, (c) on the 65816 in native
mode with `P.x` = 1. -/
abbrev State.WellFormed (s : State) : Prop :=
  (s.cfg.variant ≠ .m65816 →
    hiByte s.x = 0 ∧ hiByte s.y = 0 ∧ (s.cfg.emuStackPage = true → hiByte s.s = 0x01) ∧
    s.d = 0 ∧ s.dbr = 0 ∧ s.pbr = 0 ∧ s.e = true) ∧
  (s.cfg.variant = .m65816 → s.e = true →
    hiByte s.x = 0 ∧ hiByte s.y = 0 ∧ (s.cfg.emuStackPage = true → hiByte s.s = 0x01)) ∧
  (s.cfg.variant = .m65816 → s.e = false → s.p.getLsbD bitX = true → hiByte s.x = 0 ∧ hiByte s.y = 0)

/-- Memory is in canonical form and lists no address outside the variant's space (R70). -/
abbrev State.MemOk (s : State) : Prop := s.mem.wf ∧ ∀ c ∈ s.mem, c.1 < s.addrSpace

/-- The invariant of the machine: well formed, memory in order, and the default reading of `INDEX_WIDTH_FLAG` (the
literal reading breaks `WellFormed`, as vector X4 of 95_test_vectors.md says). -/
abbrev State.Inv (s : State) : Prop := s.WellFormed ∧ s.MemOk ∧ s.cfg.indexWidthFlag = .x

/-! ### Launch premises (R331) -/

/-- `Variant(V)` (R331 b). -/
abbrev State.VariantIs (s : State) (v : Variant) : Prop := s.cfg.variant = v

/-- `ModeIs(e, m, x)` (R331 c). -/
abbrev State.ModeIs (s : State) (e m x : Bool) : Prop := s.eFlag = e ∧ s.flagM = m ∧ s.flagX = x

/-- `CodeAt(base, bytes)` (R331 d): the bytes stand at `{PBR, base}` upward, the offset wrapping in the bank. -/
abbrev State.CodeAt (s : State) (base : Word) (bytes : List Byte) : Prop :=
  ∀ k (h : k < bytes.length), s.byteAt (s.codeAddr base k) = bytes[k]

/-- `PlainMemory(region)` (R331 e, R78), the region in its two parts: every address the run fetches from or reads is RAM
or ROM, every address it writes is RAM. -/
def State.PlainMemory (s : State) (reads writes : Addr → Prop) : Prop :=
  (∀ a, reads a → s.readable a = true) ∧ ∀ a, writes a → s.writable a = true

/-- `NoAsyncEvents` (R331 f, R303). -/
abbrev State.NoAsyncEvents (s : State) : Prop := s.cfg.interrupts = false

/-! ### Runs (R333) -/

/-- How a run under fuel ends. -/
inductive RunEnd where
  /-- After a completed instruction `PC` was in `END_PC`: the normal end, with the final state. -/
  | ended (s : State)
  /-- A step was refused; the run has no final state. -/
  | refused (r : Refusal)
  /-- The fuel ran out. -/
  | outOfFuel (s : State)
  deriving DecidableEq, Repr

/-- A run of at most `n` instructions (R333). What the chip does at `END_PC` is not said: only the run stops. -/
def runToEnd : Nat → State → RunEnd
  | 0, s => .outOfFuel s
  | n + 1, s =>
    match step s with
    | .next t => if s.cfg.endPc.contains t.pc then .ended t else runToEnd n t
    | .refused r => .refused r
    | .fault f => nomatch f

/-- A run is safe when it reaches its end without a refusal. -/
def SafeRun (n : Nat) (s : State) : Prop := ∃ t, runToEnd n s = .ended t

/-! ### The words of the statements -/

/-- How many bits a width has. -/
def bits : Width → Nat
  | .w8 => 8
  | .w16 => 16

/-- The flags of `t` follow the number `v` at width `w` (R14): n is the top bit of its low `w` bits, z says they are
all 0, and no other bit of `P` differs from `s`. -/
def FlagsFollow (w : Width) (v : Nat) (s t : State) : Prop :=
  t.p.getLsbD 7 = v.testBit (bits w - 1) ∧
  (t.p.getLsbD 1 = true ↔ v % 2 ^ bits w = 0) ∧
  ∀ k, k ≠ 7 → k ≠ 1 → t.p.getLsbD k = s.p.getLsbD k

/-- `PC` has moved past an instruction of `len` bytes, modulo 2^16 (R107). -/
def PcPast (len : Nat) (s t : State) : Prop := t.pc.toNat = (s.pc.toNat + len) % 65536

/-- The byte at every address is as before. -/
def SameMemory (s t : State) : Prop := ∀ a, t.byteAt a = s.byteAt a

/-- The bytes a datum of width `w` at `m` takes. -/
def Touches (w : Width) (m : EA) (a : Addr) : Prop := a = m.ea ∨ (w = .w16 ∧ a = m.ea1)

/-- Every byte of the datum can be read as plain memory (R78). -/
def CanRead (s : State) (w : Width) (m : EA) : Prop := ∀ a, Touches w m a → s.readable a = true

/-- Every byte of the datum can be written as plain memory (R78). -/
def CanWrite (s : State) (w : Width) (m : EA) : Prop := ∀ a, Touches w m a → s.writable a = true

/-- The `w`-bit datum that memory holds at `m`, low byte at `ea`, high byte at `ea1` (R73), as a number. -/
def datumNat (s : State) (w : Width) (m : EA) : Nat :=
  match w with
  | .w8 => (s.byteAt m.ea).toNat
  | .w16 => (s.byteAt m.ea).toNat + 256 * (s.byteAt m.ea1).toNat

/-- The accumulator of `t` holds the low `w` bits of `v`: at width 8 in `A` with `B` kept, at width 16 in `C` (R32). -/
def AccHolds (w : Width) (v : Nat) (s t : State) : Prop :=
  match w with
  | .w8 => t.a.toNat = v % 256 ∧ t.b = s.b
  | .w16 => t.a.toNat = v % 256 ∧ t.b.toNat = v / 256 % 256

/-- The low `w` bits of `v` stand at `m` in `t`, low byte at `ea` and at width 16 high byte at `ea1` (R73), and every
byte outside the datum is as in `s`. -/
def StoredAt (w : Width) (v : Nat) (m : EA) (s t : State) : Prop :=
  (t.byteAt m.ea).toNat = v % 256 ∧
  (w = .w16 → (t.byteAt m.ea1).toNat = v / 256 % 256) ∧
  ∀ a, ¬ Touches w m a → t.byteAt a = s.byteAt a

/-- The instruction `i` of `len` bytes, whose datum `mode` finds, does what R170 says of LDA: where it is available,
its address can be found and its datum can be read, it completes; the accumulator takes the datum, n and z follow it,
`PC` moves past it, and nothing else differs. -/
def LoadsA (i : Instr) (len : Nat) (mode : State → Except Refusal EA) : Prop :=
  ∀ s m, i.avail.allows s.cfg.variant = true → mode s = .ok m → CanRead s s.wA m →
    ∃ t, exec i s = .next t ∧ AccHolds s.wA (datumNat s s.wA m) s t ∧ FlagsFollow s.wA (datumNat s s.wA m) s t ∧
      PcPast len s t ∧ SameMemory s t ∧ t = { s with a := t.a, b := t.b, p := t.p, pc := t.pc }

/-- The same of LDX (R190): `X` takes the datum, zero-extended. -/
def LoadsX (i : Instr) (len : Nat) (mode : State → Except Refusal EA) : Prop :=
  ∀ s m, i.avail.allows s.cfg.variant = true → mode s = .ok m → CanRead s s.wI m →
    ∃ t, exec i s = .next t ∧ t.x.toNat = datumNat s s.wI m ∧ FlagsFollow s.wI (datumNat s s.wI m) s t ∧
      PcPast len s t ∧ SameMemory s t ∧ t = { s with x := t.x, p := t.p, pc := t.pc }

/-- The same of LDY (R200): `Y` takes the datum, zero-extended. -/
def LoadsY (i : Instr) (len : Nat) (mode : State → Except Refusal EA) : Prop :=
  ∀ s m, i.avail.allows s.cfg.variant = true → mode s = .ok m → CanRead s s.wI m →
    ∃ t, exec i s = .next t ∧ t.y.toNat = datumNat s s.wI m ∧ FlagsFollow s.wI (datumNat s s.wI m) s t ∧
      PcPast len s t ∧ SameMemory s t ∧ t = { s with y := t.y, p := t.p, pc := t.pc }

/-- The instruction `i` of `len` bytes, whose datum `mode` finds, stores the low `w` bits of `v` (R210, R230, R240,
R250): where it is available, its address can be found and its datum can be written, it completes; those bytes stand
at the datum's addresses, every other byte, every register and every flag is as before, and `PC` moves past it. -/
def Stores (i : Instr) (len : Nat) (w : State → Width) (v : State → Nat) (mode : State → Except Refusal EA) : Prop :=
  ∀ s m, i.avail.allows s.cfg.variant = true → mode s = .ok m → CanWrite s (w s) m →
    ∃ t, exec i s = .next t ∧ StoredAt (w s) (v s) m s t ∧ PcPast len s t ∧
      t = { s with mem := t.mem, pc := t.pc }

/-- The one-byte instruction `i` has the opcode `op`, in every context, is available where `av` says, is refused on
every other variant (R111), and takes 2 cycles in every state (R258 a, g, h). -/
def OneByte (i : Instr) (op : Byte) (av : Avail) : Prop :=
  (∀ c, encode c i = [op]) ∧ i.avail = av ∧
  (∀ s, av.allows s.cfg.variant = false → exec i s = .refused (.opcodeNotAvailable op s.cfg.variant)) ∧
  ∀ s, cycles i s = 2

/-- Where it is available, the one-byte instruction `i` completes with `PC` one further and memory as before, in a
state of which `P` holds (R258 c, d). -/
def Transfers (i : Instr) (P : State → State → Prop) : Prop :=
  ∀ s, i.avail.allows s.cfg.variant = true → ∃ t, exec i s = .next t ∧ PcPast 1 s t ∧ SameMemory s t ∧ P s t

/-- Where a store puts its datum: the width and what its mode answers (R210, R230, R240, R250); none for an instruction
that stores nothing. -/
def storeAt (s : State) : Instr → Option (Width × Except Refusal EA)
  | .staAbs o => some (s.wA, .ok (eaAbs o s))
  | .staLong o => some (s.wA, .ok (eaLong o s))
  | .staDp o => some (s.wA, .ok (eaDp o s))
  | .staDpInd o => some (s.wA, eaDpInd o s)
  | .staDpIndLong o => some (s.wA, eaDpIndLong o s)
  | .staAbsX o => some (s.wA, .ok (eaAbsX o s))
  | .staLongX o => some (s.wA, .ok (eaLongX o s))
  | .staAbsY o => some (s.wA, .ok (eaAbsY o s))
  | .staDpX o => some (s.wA, .ok (eaDpX o s))
  | .staDpXInd o => some (s.wA, eaDpXInd o s)
  | .staDpIndY o => some (s.wA, eaDpIndY o s)
  | .staDpIndLongY o => some (s.wA, eaDpIndLongY o s)
  | .staSr o => some (s.wA, eaSr o s)
  | .staSrIndY o => some (s.wA, eaSrIndY o s)
  | .stxAbs o => some (s.wI, .ok (eaAbs o s))
  | .stxDp o => some (s.wI, .ok (eaDp o s))
  | .stxDpY o => some (s.wI, .ok (eaDpY o s))
  | .styAbs o => some (s.wI, .ok (eaAbs o s))
  | .styDp o => some (s.wI, .ok (eaDp o s))
  | .styDpX o => some (s.wI, .ok (eaDpX o s))
  | .stzAbs o => some (s.wA, .ok (eaAbs o s))
  | .stzDp o => some (s.wA, .ok (eaDp o s))
  | .stzAbsX o => some (s.wA, .ok (eaAbsX o s))
  | .stzDpX o => some (s.wA, .ok (eaDpX o s))
  | .ldaImm _ | .ldaAbs _ | .ldaLong _ | .ldaDp _ | .ldaDpInd _ | .ldaDpIndLong _ | .ldaAbsX _ | .ldaLongX _ |
    .ldaAbsY _ | .ldaDpX _ | .ldaDpXInd _ | .ldaDpIndY _ | .ldaDpIndLongY _ | .ldaSr _ | .ldaSrIndY _ | .ldxImm
    _ | .ldxAbs _ | .ldxDp _ | .ldxAbsY _ | .ldxDpY _ | .ldyImm _ | .ldyAbs _ | .ldyDp _ | .ldyAbsX _ | .ldyDpX
    _ | .tax | .tay | .tcd | .tcs | .tdc | .tsc | .tsx | .txa | .txs | .txy | .tya | .tyx | .xba => none

/-- The corner of R151 (a), (b) or (c) that the operand of an instruction meets, as the reason of its refusal. -/
def cornerOf (s : State) : Instr → Option Refusal
  | .ldaDpInd dp | .staDpInd dp | .ldaDpIndY dp | .staDpIndY dp =>
    if (s.d.toNat + dp.toNat) % 256 = 0xFF then some .emuPointerWrap else none
  | .ldaDpXInd dp | .staDpXInd dp =>
    if (s.d.toNat + dp.toNat + s.x.toNat) % 256 = 0xFF then some .emuPointerWrap else none
  | .ldaDpIndLong dp | .staDpIndLong dp | .ldaDpIndLongY dp | .staDpIndLongY dp =>
    if 0xFE ≤ (s.d.toNat + dp.toNat) % 256 then some .emuPointerWrap else none
  | .ldaSr sr | .staSr sr => if 0xFF < s.s.toNat % 256 + sr.toNat then some .emuStackRelative else none
  | .ldaSrIndY sr | .staSrIndY sr => if 0xFF < s.s.toNat % 256 + sr.toNat + 1 then some .emuStackRelative else none
  | .ldaImm _ | .ldaAbs _ | .ldaLong _ | .ldaDp _ | .ldaAbsX _ | .ldaLongX _ | .ldaAbsY _ | .ldaDpX _ | .ldxImm
    _ | .ldxAbs _ | .ldxDp _ | .ldxAbsY _ | .ldxDpY _ | .ldyImm _ | .ldyAbs _ | .ldyDp _ | .ldyAbsX _ | .ldyDpX
    _ | .staAbs _ | .staLong _ | .staDp _ | .staAbsX _ | .staLongX _ | .staAbsY _ | .staDpX _ | .stxAbs _ |
    .stxDp _ | .stxDpY _ | .styAbs _ | .styDp _ | .styDpX _ | .stzAbs _ | .stzDp _ | .stzAbsX _ | .stzDpX _ |
    .tax | .tay | .tcd | .tcs | .tdc | .tsc | .tsx | .txa | .txs | .txy | .tya | .tyx | .xba => none

/-- The instruction stands in an open corner that R151 refuses for the reason `r`: on the 65816 in emulation mode with
`EMU_DP_CORNERS` = `refuse`. -/
def OpenCorner (s : State) (i : Instr) (r : Refusal) : Prop :=
  s.cfg.variant = .m65816 ∧ s.e = true ∧ s.cfg.emuDpCorners = .refuse ∧ cornerOf s i = some r

/-- The outcome with a function applied to its next state. -/
def mapNext (f : State → State) : Host.Outcome State Fault Refusal → Host.Outcome State Fault Refusal
  | .next s => .next (f s)
  | .fault r => .fault r
  | .refused r => .refused r

end Sys2Proof.Machine
end

