-- ==== Sys2Proof/Certificates/Slice0/Obligations.lean ====
section
/-!
DEFINITION. The statements for the provers. The words they use (`LoadsA`, `Stores`, `Transfers`, `FlagsFollow` ...)
stand in Sys2Proof/Safety.lean. Rules R<n> are those of spec/.
-/

section

open Sys2Proof Sys2Proof.Machine

/-! ### Encoding and decoding -/

/-- Decoding the bytes of a well-formed instruction gives it back, whatever bytes follow (R100 to R106). Byte order
and unsigned operands are the spec's own decision D13 (log 25). -/
def Obligations.DecodeOfEncode : Prop :=
  ∀ (c : Ctx) (i : Instr) (rest : List Byte), i.wf c = true → decode c (encode c i ++ rest) = .ok (i, rest)

/-- What the decoder reads is well formed, and its encoding is exactly the bytes consumed: no byte sequence is read as
an instruction whose encoding it is not. Byte order and unsigned operands are the spec's own decision D13 (log 25). -/
def Obligations.EncodeOfDecode : Prop :=
  ∀ (c : Ctx) (bs : List Byte) (i : Instr) (rest : List Byte),
    decode c bs = .ok (i, rest) → bs = encode c i ++ rest ∧ i.wf c = true

/-- Operand assembly (R106), with the format of every opcode (R101 to R104): where the row is available, the bytes
after the opcode are taken as unsigned numbers, the low byte first. That operands are unsigned and low byte first is
the spec's own decision D13 (log 25). -/
def Obligations.OperandAssembly : Prop :=
  ∀ (c : Ctx) (b1 b2 b3 : Byte) (rest : List Byte),
    (∀ p ∈ [(0xAA#8, Instr.tax), (0xA8#8, .tay), (0x5B#8, .tcd), (0x1B#8, .tcs), (0x7B#8, .tdc), (0x3B#8, .tsc),
        (0xBA#8, .tsx), (0x8A#8, .txa), (0x9A#8, .txs), (0x9B#8, .txy), (0x98#8, .tya), (0xBB#8, .tyx),
        (0xEB#8, .xba)],
      p.2.avail.allows c.variant = true → decode c (p.1 :: rest) = .ok (p.2, rest)) ∧
    (∀ p ∈ [(0xA5#8, Instr.ldaDp), (0xB2#8, .ldaDpInd), (0xA7#8, .ldaDpIndLong), (0xB5#8, .ldaDpX),
        (0xA1#8, .ldaDpXInd), (0xB1#8, .ldaDpIndY), (0xB7#8, .ldaDpIndLongY), (0xA3#8, .ldaSr), (0xB3#8, .ldaSrIndY),
        (0xA6#8, .ldxDp), (0xB6#8, .ldxDpY), (0xA4#8, .ldyDp), (0xB4#8, .ldyDpX), (0x85#8, .staDp),
        (0x92#8, .staDpInd), (0x87#8, .staDpIndLong), (0x95#8, .staDpX), (0x81#8, .staDpXInd), (0x91#8, .staDpIndY),
        (0x97#8, .staDpIndLongY), (0x83#8, .staSr), (0x93#8, .staSrIndY), (0x86#8, .stxDp), (0x96#8, .stxDpY),
        (0x84#8, .styDp), (0x94#8, .styDpX), (0x64#8, .stzDp), (0x74#8, .stzDpX)],
      (p.2 b1).avail.allows c.variant = true → decode c (p.1 :: b1 :: rest) = .ok (p.2 b1, rest)) ∧
    (∀ p ∈ [(0xAD#8, Instr.ldaAbs), (0xBD#8, .ldaAbsX), (0xB9#8, .ldaAbsY), (0xAE#8, .ldxAbs), (0xBE#8, .ldxAbsY),
        (0xAC#8, .ldyAbs), (0xBC#8, .ldyAbsX), (0x8D#8, .staAbs), (0x9D#8, .staAbsX), (0x99#8, .staAbsY),
        (0x8E#8, .stxAbs), (0x8C#8, .styAbs), (0x9C#8, .stzAbs), (0x9E#8, .stzAbsX)],
      (p.2 0).avail.allows c.variant = true →
        ∃ o : Word, o.toNat = b1.toNat + 256 * b2.toNat ∧ decode c (p.1 :: b1 :: b2 :: rest) = .ok (p.2 o, rest)) ∧
    (∀ p ∈ [(0xAF#8, Instr.ldaLong), (0xBF#8, .ldaLongX), (0x8F#8, .staLong), (0x9F#8, .staLongX)],
      (p.2 0).avail.allows c.variant = true →
        ∃ o : Addr, o.toNat = b1.toNat + 256 * b2.toNat + 65536 * b3.toNat ∧
          decode c (p.1 :: b1 :: b2 :: b3 :: rest) = .ok (p.2 o, rest)) ∧
    (∀ p ∈ [(0xA9#8, Instr.ldaImm, c.wA), (0xA2#8, .ldxImm, c.wI), (0xA0#8, .ldyImm, c.wI)],
      (p.2.2 = .w8 → ∃ o : Word, o.toNat = b1.toNat ∧ decode c (p.1 :: b1 :: rest) = .ok (p.2.1 o, rest)) ∧
      (p.2.2 = .w16 → ∃ o : Word, o.toNat = b1.toNat + 256 * b2.toNat ∧
        decode c (p.1 :: b1 :: b2 :: rest) = .ok (p.2.1 o, rest)))

/-- The lengths that depend on a mode (R105): the immediates by `wA` and, with `INDEX_WIDTH_FLAG` = `x`, by `wX`; the
encoding of every other instruction is the same in every context, 1 to 4 bytes long. That LDX and LDY follow `wX` is
the spec's own decision D4 (log 11). -/
def Obligations.InstructionLengths : Prop :=
  (∀ (s : State) (k : Word),
    (encode s.ctx (.ldaImm k)).length = (if s.wA = .w8 then 2 else 3) ∧
    (s.cfg.indexWidthFlag = .x → (encode s.ctx (.ldxImm k)).length = (if s.wX = .w8 then 2 else 3)) ∧
    (s.cfg.indexWidthFlag = .x → (encode s.ctx (.ldyImm k)).length = (if s.wX = .w8 then 2 else 3))) ∧
  ∀ (i : Instr) (c c' : Ctx), i.immediate? c = none →
    encode c i = encode c' i ∧ 1 ≤ (encode c i).length ∧ (encode c i).length ≤ 4

/-- One word of each family, written out from the spec's encodings (95_test_vectors.md section 1.5). -/
def Obligations.WrittenWordsDecode : Prop :=
  decode ⟨.m6502, .w8, .w8⟩ [0xA9, 0x80] = .ok (.ldaImm 0x80, []) ∧
  decode ⟨.m65816, .w16, .w8⟩ [0xA9, 0x80, 0x12] = .ok (.ldaImm 0x1280, []) ∧
  decode ⟨.m65816, .w8, .w8⟩ [0xAF, 0x34, 0x12, 0x7F] = .ok (.ldaLong 0x7F1234, []) ∧
  decode ⟨.m6502, .w8, .w8⟩ [0xBE, 0x34, 0x12] = .ok (.ldxAbsY 0x1234, []) ∧
  decode ⟨.m65C02, .w8, .w8⟩ [0xB4, 0x20] = .ok (.ldyDpX 0x20, []) ∧
  decode ⟨.m65816, .w8, .w8⟩ [0x93, 0x03] = .ok (.staSrIndY 0x03, []) ∧
  decode ⟨.m6502, .w8, .w8⟩ [0x96, 0x20] = .ok (.stxDpY 0x20, []) ∧
  decode ⟨.m6502, .w8, .w8⟩ [0x8C, 0x34, 0x12] = .ok (.styAbs 0x1234, []) ∧
  decode ⟨.m65C02, .w8, .w8⟩ [0x9E, 0x34, 0x12] = .ok (.stzAbsX 0x1234, []) ∧
  decode ⟨.m65816, .w8, .w8⟩ [0xEB] = .ok (.xba, [])

/-- Availability (R111): which opcodes each of the three lists of the table holds, which variants each list means, and
that an instruction is refused, with its opcode and the variant named, wherever it is not available. How the marks
are read is the spec's own decision D2 (log 21), the refusal is D22 (log 26), and that `exec` refuses too is the
model's (log 7). -/
def Obligations.Availability : Prop :=
  (∀ i : Instr, i.avail = .all ↔ i.opcode ∈ [0xA9#8, 0xAD#8, 0xA5#8, 0xBD#8, 0xB9#8, 0xB5#8, 0xA1#8, 0xB1#8, 0xA2#8,
    0xAE#8, 0xA6#8, 0xBE#8, 0xB6#8, 0xA0#8, 0xAC#8, 0xA4#8, 0xBC#8, 0xB4#8, 0x8D#8, 0x85#8, 0x9D#8, 0x99#8, 0x95#8,
    0x81#8, 0x91#8, 0x8E#8, 0x86#8, 0x96#8, 0x8C#8, 0x84#8, 0x94#8, 0xAA#8, 0xA8#8, 0xBA#8, 0x8A#8, 0x9A#8, 0x98#8]) ∧
  (∀ i : Instr, i.avail = .from65C02 ↔ i.opcode ∈ [0xB2#8, 0x92#8, 0x9C#8, 0x64#8, 0x9E#8, 0x74#8]) ∧
  (∀ i : Instr, i.avail = .only65816 ↔ i.opcode ∈ [0xAF#8, 0xA7#8, 0xBF#8, 0xB7#8, 0xA3#8, 0xB3#8, 0x8F#8, 0x87#8,
    0x9F#8, 0x97#8, 0x83#8, 0x93#8, 0x5B#8, 0x1B#8, 0x7B#8, 0x3B#8, 0x9B#8, 0xBB#8, 0xEB#8]) ∧
  (∀ v : Variant, Avail.all.allows v = true ∧ (Avail.from65C02.allows v = true ↔ v ≠ .m6502) ∧
    (Avail.only65816.allows v = true ↔ v = .m65816)) ∧
  ∀ (i : Instr) (s : State), i.avail.allows s.cfg.variant = false →
    exec i s = .refused (.opcodeNotAvailable i.opcode s.cfg.variant)

/-! ### Fetch and step -/

/-- A step refuses every byte that is none of the 62 opcodes, and every listed byte whose row the variant lacks; it
names the byte (R112, R302). The refusal is the spec's own decision D22 (log 26). -/
def Obligations.UnknownBytesRefused : Prop :=
  ∀ s : State, s.NoAsyncEvents → s.readable (s.fetchAddr 0) = true →
    (s.byteAt (s.fetchAddr 0) ∉ [0x1B#8, 0x3B#8, 0x5B#8, 0x64#8, 0x74#8, 0x7B#8, 0x81#8, 0x83#8, 0x84#8, 0x85#8,
        0x86#8, 0x87#8, 0x8A#8, 0x8C#8, 0x8D#8, 0x8E#8, 0x8F#8, 0x91#8, 0x92#8, 0x93#8, 0x94#8, 0x95#8, 0x96#8, 0x97#8,
        0x98#8, 0x99#8, 0x9A#8, 0x9B#8, 0x9C#8, 0x9D#8, 0x9E#8, 0x9F#8, 0xA0#8, 0xA1#8, 0xA2#8, 0xA3#8, 0xA4#8, 0xA5#8,
        0xA6#8, 0xA7#8, 0xA8#8, 0xA9#8, 0xAA#8, 0xAC#8, 0xAD#8, 0xAE#8, 0xAF#8, 0xB1#8, 0xB2#8, 0xB3#8, 0xB4#8, 0xB5#8,
        0xB6#8, 0xB7#8, 0xB9#8, 0xBA#8, 0xBB#8, 0xBC#8, 0xBD#8, 0xBE#8, 0xBF#8, 0xEB#8] →
      step s = .refused (.opcodeNotInSpec (s.byteAt (s.fetchAddr 0)))) ∧
    ∀ i : Instr, i.opcode = s.byteAt (s.fetchAddr 0) → i.avail.allows s.cfg.variant = false →
      step s = .refused (.opcodeNotAvailable i.opcode s.cfg.variant)

/-- A step runs the decoded instruction: where the bytes of a well-formed instruction stand at the program counter and
can be fetched, the step is the execution of that instruction. Where instruction bytes are fetched is the spec's own
decision D11 (log 25). -/
def Obligations.StepRunsDecoded : Prop :=
  ∀ (s : State) (i : Instr), s.NoAsyncEvents → i.wf s.ctx = true → s.CodeAt s.pc (encode s.ctx i) →
    (∀ k < (encode s.ctx i).length, s.readable (s.fetchAddr k) = true) → step s = exec i s

/-- The program counter (R46): the bytes of an instruction are fetched at `{PBR, PC}` upward, the offset wrapping in
the bank; every instruction that completes leaves `PC` its own length further, modulo 2^16, and `PBR` as it was. All
of it is the spec's own decision D11 (log 25). -/
def Obligations.ProgramCounter : Prop :=
  (∀ (s : State) (k : Nat),
    (s.cfg.variant = .m65816 → (s.fetchAddr k).toNat = s.pbr.toNat * 65536 + (s.pc.toNat + k) % 65536) ∧
    (s.cfg.variant ≠ .m65816 → (s.fetchAddr k).toNat = (s.pc.toNat + k) % 65536)) ∧
  ∀ (i : Instr) (s t : State), exec i s = .next t → PcPast (encode s.ctx i).length s t ∧ t.pbr = s.pbr

/-- With `INTERRUPTS` = `true` the model refuses, as R303 asks. It is the spec's own decision D24 (log 18). -/
def Obligations.InterruptsRefused : Prop := ∀ s : State, s.cfg.interrupts = true → step s = .refused .asyncEvents

/-- A store is seen by the next fetch (R85): an 8-bit `STA addr` into the opcode byte of the instruction after it
completes, and the step after it meets the byte stored: it refuses that byte if it is no opcode of the variant, and
runs the instruction if the byte is a one-byte instruction. It is the spec's own decision D21 (log 19). -/
def Obligations.StoreSeenByFetch : Prop :=
  ∀ (s : State) (addr : Word), s.NoAsyncEvents → s.wA = .w8 → s.a24 s.dbrReg addr = s.fetchAddr 3 →
    s.writable (s.fetchAddr 3) = true →
    ∃ t, exec (.staAbs addr) s = .next t ∧ t.byteAt (t.fetchAddr 0) = s.a ∧
      (∀ r, lookup s.cfg.variant s.a = .error r → step t = .refused (.ofReject r)) ∧
      ∀ i : Instr, encode s.ctx i = [s.a] → i.avail.allows s.cfg.variant = true → step t = exec i t

/-! ### Memory -/

/-- A store then a load of the same `addr` in plain memory (R82): both complete, the accumulator is as before, n and z
follow the value, and only the bytes stored differ. That a read sees the latest write is the spec's own decision D20
(log 19). -/
def Obligations.StoreThenLoad : Prop :=
  ∀ (s : State) (addr : Word), CanWrite s s.wA (eaAbs addr s) →
    ∃ t u, exec (.staAbs addr) s = .next t ∧ exec (.ldaAbs addr) t = .next u ∧
      u.a = s.a ∧ u.b = s.b ∧ FlagsFollow s.wA s.c.toNat s u ∧ StoredAt s.wA s.c.toNat (eaAbs addr s) s u

/-- Two memories in canonical form that read the same at every address are equal (the model's own representation).
It is the model's own choice of representation (log 2). -/
def Obligations.EqualMemories : Prop :=
  ∀ m n : Memory, m.wf → n.wf → (∀ a, m.read a = n.read a) → m = n

/-- Data are little-endian (R73): a readable datum reads as the byte at `ea` plus 256 times the byte at `ea1` (at
width 8 the byte at `ea` alone), a writable one takes its bytes there, and a 16-bit and an 8-bit read at one address
agree on the low byte. -/
def Obligations.LittleEndianData : Prop :=
  (∀ (s : State) (w : Width) (m : EA), CanRead s w m →
    ∃ v, readDatum s w m = .ok v ∧
      v.toNat = (match w with
        | .w8 => (s.byteAt m.ea).toNat
        | .w16 => (s.byteAt m.ea).toNat + 256 * (s.byteAt m.ea1).toNat)) ∧
  (∀ (s : State) (w : Width) (m : EA) (v : Word), CanWrite s w m → m.ea ≠ m.ea1 →
    ∃ t, writeDatum s w m v = .ok t ∧ StoredAt w v.toNat m s t ∧ t = { s with mem := t.mem }) ∧
  ∀ (s : State) (m : EA) (v v' : Word), readDatum s .w16 m = .ok v → readDatum s .w8 m = .ok v' →
    v'.toNat = v.toNat % 256

/-- Outside plain memory (R77, R78): reads and fetches are refused off RAM and ROM, writes off RAM; of a 16-bit access
the low byte is tried first, so its address is the one named when both are refused. They are the spec's own
decisions D30 (log 3) and D15 (log 19). -/
def Obligations.NotPlainMemoryRefused : Prop :=
  (∀ (s : State) (a : Addr), (s.kindAt a = .device ∨ s.kindAt a = .absent) →
    readByte s a = .error (.notPlainMemory a)) ∧
  (∀ (s : State) (a : Addr) (v : Byte), s.kindAt a ≠ .ram → writeByte s a v = .error (.notPlainMemory a)) ∧
  (∀ (s : State) (m : EA), s.readable m.ea = false → readDatum s .w16 m = .error (.notPlainMemory m.ea)) ∧
  (∀ (s : State) (m : EA), s.readable m.ea = true → s.readable m.ea1 = false →
    readDatum s .w16 m = .error (.notPlainMemory m.ea1)) ∧
  (∀ (s : State) (m : EA) (v : Word), s.writable m.ea = false →
    writeDatum s .w16 m v = .error (.notPlainMemory m.ea)) ∧
  ∀ (s : State) (m : EA) (v : Word), s.writable m.ea = true → s.writable m.ea1 = false →
    writeDatum s .w16 m v = .error (.notPlainMemory m.ea1)

/-! ### Flags, widths and absent registers -/

/-- `setNZ_w(v)` (R14): n is the top bit and z says the value is 0, both written every time, and nothing else
changes. That a flag is cleared when its condition fails is the spec's own reading D5 (log 17). -/
def Obligations.FlagUpdate : Prop :=
  ∀ (s : State) (w : Width) (v : Word),
    FlagsFollow w v.toNat s (s.putNZ w v) ∧ s.putNZ w v = { s with p := (s.putNZ w v).p }

/-- The widths (R44, R45), and the datum width of LDX, LDY, STX and STY under both values of `INDEX_WIDTH_FLAG`. The
places of m and x and the mode `e` are the spec's own decisions D6 and D7 (log 14), `INDEX_WIDTH_FLAG` is D4 (log
11). -/
def Obligations.Widths : Prop :=
  ∀ s : State,
    (s.wA = .w16 ↔ s.cfg.variant = .m65816 ∧ s.e = false ∧ s.p.getLsbD 5 = false) ∧
    (s.wX = .w16 ↔ s.cfg.variant = .m65816 ∧ s.e = false ∧ s.p.getLsbD 4 = false) ∧
    (s.cfg.indexWidthFlag = .x → s.wI = s.wX) ∧ (s.cfg.indexWidthFlag = .m → s.wI = s.wA)

/-! ### Addressing modes -/

/-- `A24` and `lin` (R130), and the constants the absent registers read as on the 8-bit processors. They are the
spec's own conventions (D16, log 16; log 9). -/
def Obligations.AddressArithmetic : Prop :=
  ∀ (s : State) (b : Byte) (o : Word) (a : Addr) (k : Word),
    (s.cfg.variant = .m65816 → (s.a24 b o).toNat = b.toNat * 65536 + o.toNat ∧
      (s.lin a k).toNat = (a.toNat + k.toNat) % 2 ^ 24 ∧
      s.dReg = s.d ∧ s.dbrReg = s.dbr ∧ s.pbrReg = s.pbr ∧ s.eFlag = s.e) ∧
    (s.cfg.variant ≠ .m65816 → (s.a24 b o).toNat = o.toNat ∧ (s.lin a k).toNat = (a.toNat + k.toNat) % 2 ^ 16 ∧
      s.dReg = 0 ∧ s.dbrReg = 0 ∧ s.pbrReg = 0 ∧ s.eFlag = true)

/-- The Direct Page address of an offset (R131), and the timing condition `dl_penalty`. The formulas are the spec's
own decision D16 (log 16). -/
def Obligations.DirectPageAddress : Prop :=
  ∀ (s : State) (off : Word),
    (s.cfg.variant ≠ .m65816 → (s.dpa off).toNat = off.toNat % 256) ∧
    (s.cfg.variant = .m65816 → s.e = true → s.d.toNat % 256 = 0 →
      (s.dpa off).toNat = s.d.toNat / 256 * 256 + off.toNat % 256) ∧
    (s.cfg.variant = .m65816 → ¬ (s.e = true ∧ s.d.toNat % 256 = 0) →
      (s.dpa off).toNat = (s.d.toNat + off.toNat) % 65536) ∧
    (s.cfg.variant = .m65816 → (s.dpl off).toNat = (s.d.toNat + off.toNat) % 65536) ∧
    (s.dlPenalty = true ↔ s.cfg.variant = .m65816 ∧ s.d.toNat % 256 ≠ 0)

/-- Pointer reads (R132): the value, low byte at the first address, and the order, seen in which address a refusal
names. Byte order and access order are the spec's own decisions D13 (log 25) and D15 (log 19). -/
def Obligations.PointerReads : Prop :=
  ∀ (s : State) (a0 a1 a2 : Addr),
    (s.readable a0 = true → s.readable a1 = true →
      ∃ p, ptr16 s a0 a1 = .ok p ∧ p.toNat = (s.byteAt a0).toNat + 256 * (s.byteAt a1).toNat) ∧
    (s.readable a0 = true → s.readable a1 = true → s.readable a2 = true →
      ∃ p, ptr24 s a0 a1 a2 = .ok p ∧
        p.toNat = (s.byteAt a0).toNat + 256 * (s.byteAt a1).toNat + 65536 * (s.byteAt a2).toNat) ∧
    (s.readable a0 = false → ptr16 s a0 a1 = .error (.notPlainMemory a0) ∧
      ptr24 s a0 a1 a2 = .error (.notPlainMemory a0)) ∧
    (s.readable a0 = true → s.readable a1 = false → ptr16 s a0 a1 = .error (.notPlainMemory a1) ∧
      ptr24 s a0 a1 a2 = .error (.notPlainMemory a1)) ∧
    (s.readable a0 = true → s.readable a1 = true → s.readable a2 = false →
      ptr24 s a0 a1 a2 = .error (.notPlainMemory a2))

/-- Immediate (R133): the datum of a decoded immediate is what memory holds at `ea`, `ea1`, in the program bank.
Where the operand bytes stand is the spec's own decision D11 (log 25). -/
def Obligations.ImmediateDatum : Prop :=
  ∀ (s : State) (k : Word),
    (s.cfg.variant = .m65816 → (eaImm s).ea.toNat = s.pbr.toNat * 65536 + (s.pc.toNat + 1) % 65536 ∧
      (eaImm s).ea1.toNat = s.pbr.toNat * 65536 + (s.pc.toNat + 2) % 65536) ∧
    (s.cfg.variant ≠ .m65816 → (eaImm s).ea.toNat = (s.pc.toNat + 1) % 65536) ∧
    (Instr.wf s.ctx (.ldaImm k) = true → s.CodeAt s.pc (encode s.ctx (.ldaImm k)) →
      datumNat s s.wA (eaImm s) = k.toNat) ∧
    (Instr.wf s.ctx (.ldxImm k) = true → s.CodeAt s.pc (encode s.ctx (.ldxImm k)) →
      datumNat s s.wI (eaImm s) = k.toNat) ∧
    (Instr.wf s.ctx (.ldyImm k) = true → s.CodeAt s.pc (encode s.ctx (.ldyImm k)) →
      datumNat s s.wI (eaImm s) = k.toNat)

/-- The absolute modes (R134, R135, R139, R140, R141): the 24-bit sums of the 65816, carrying into the bank and
wrapping at the top of the space, the 16-bit sums of the 8-bit processors, and the timing condition `cross`. The
formulas are the spec's own decisions D16 and D17 (log 16). -/
def Obligations.AbsoluteModes : Prop :=
  ∀ (s : State) (addr : Word) (long : Addr),
    (s.cfg.variant = .m65816 →
      (eaAbs addr s).ea.toNat = s.dbr.toNat * 65536 + addr.toNat ∧
      (eaLong long s).ea = long ∧
      (eaAbsX addr s).ea.toNat = (s.dbr.toNat * 65536 + addr.toNat + s.x.toNat) % 2 ^ 24 ∧
      (eaLongX long s).ea.toNat = (long.toNat + s.x.toNat) % 2 ^ 24 ∧
      (eaAbsY addr s).ea.toNat = (s.dbr.toNat * 65536 + addr.toNat + s.y.toNat) % 2 ^ 24 ∧
      ∀ m ∈ [eaAbs addr s, eaLong long s, eaAbsX addr s, eaLongX long s, eaAbsY addr s],
        m.ea1.toNat = (m.ea.toNat + 1) % 2 ^ 24) ∧
    (s.cfg.variant ≠ .m65816 →
      (eaAbs addr s).ea.toNat = addr.toNat ∧
      (eaAbsX addr s).ea.toNat = (addr.toNat + s.x.toNat) % 2 ^ 16 ∧
      (eaAbsY addr s).ea.toNat = (addr.toNat + s.y.toNat) % 2 ^ 16 ∧
      ∀ m ∈ [eaAbs addr s, eaAbsX addr s, eaAbsY addr s], m.ea1.toNat = (m.ea.toNat + 1) % 2 ^ 16) ∧
    (crossOf s (.ldaAbsX addr) = true ↔ (addr.toNat + s.x.toNat) / 256 ≠ addr.toNat / 256) ∧
    (crossOf s (.ldaAbsY addr) = true ↔ (addr.toNat + s.y.toNat) / 256 ≠ addr.toNat / 256)

/-- The Direct Page modes (R136, R142, R143) with offset `dp`, `dp + X` and `dp + Y`: inside page zero on the 8-bit
processors; on the 65816 inside the page in emulation mode with `DL` = 0, else anywhere in bank 0. The formulas are
the spec's own decisions D16 and D17 (log 16). -/
def Obligations.DirectPageModes : Prop :=
  ∀ (s : State) (dp : Byte),
    ∀ q ∈ [(eaDp dp s, dp.toNat), (eaDpX dp s, dp.toNat + s.x.toNat), (eaDpY dp s, dp.toNat + s.y.toNat)],
      (s.cfg.variant ≠ .m65816 → q.1.ea.toNat = q.2 % 256 ∧ q.1.ea1.toNat = (q.2 + 1) % 256) ∧
      (s.cfg.variant = .m65816 → s.e = true → s.d.toNat % 256 = 0 →
        q.1.ea.toNat = s.d.toNat / 256 * 256 + q.2 % 256 ∧
        q.1.ea1.toNat = s.d.toNat / 256 * 256 + (q.2 + 1) % 256) ∧
      (s.cfg.variant = .m65816 → ¬ (s.e = true ∧ s.d.toNat % 256 = 0) →
        q.1.ea.toNat = (s.d.toNat + q.2) % 65536 ∧ q.1.ea1.toNat = (s.d.toNat + q.2 + 1) % 65536)

/-- The modes through a 16-bit Direct Page pointer (R137, R144, R145): outside the corners of R151 and with the pointer
readable, the datum is found in bank `DBR` at the pointer, plus `Y` for `(dp),Y`; the offset of `(dp,X)` is indexed
before the pointer is read. The formulas are the spec's own decisions D16 and D17 (log 16), the corners D18 (log
13). -/
def Obligations.PointerModes : Prop :=
  ∀ (s : State) (dp : Byte),
    ∀ q ∈ [(eaDpInd dp s, offset dp, 0), (eaDpXInd dp s, offset dp + s.x, 0), (eaDpIndY dp s, offset dp, s.y.toNat)],
      (s.cornersRefused && s.straddles16 q.2.1) = false →
      s.readable (s.dpa q.2.1) = true → s.readable (s.dpa (q.2.1 + 1)) = true →
      ∃ m, q.1 = .ok m ∧
        (s.cfg.variant = .m65816 →
          m.ea.toNat = (s.dbr.toNat * 65536 + (s.byteAt (s.dpa q.2.1)).toNat
            + 256 * (s.byteAt (s.dpa (q.2.1 + 1))).toNat + q.2.2) % 2 ^ 24 ∧
          m.ea1.toNat = (m.ea.toNat + 1) % 2 ^ 24) ∧
        (s.cfg.variant ≠ .m65816 →
          m.ea.toNat = ((s.byteAt (s.dpa q.2.1)).toNat
            + 256 * (s.byteAt (s.dpa (q.2.1 + 1))).toNat + q.2.2) % 2 ^ 16)

/-- The modes through a 24-bit Direct Page pointer on the 65816 (R138, R146): the three bytes from `D + dp` in bank 0,
`DBR` not used, `Y` added for `[dp],Y`. The formulas are the spec's own decisions D16 and D17 (log 16), the corners
D18 (log 13). -/
def Obligations.LongPointerModes : Prop :=
  ∀ (s : State) (dp : Byte), s.cfg.variant = .m65816 →
    ∀ q ∈ [(eaDpIndLong dp s, 0), (eaDpIndLongY dp s, s.y.toNat)],
      (s.cornersRefused && s.straddles24 (offset dp)) = false →
      s.readable (s.dpl (offset dp)) = true → s.readable (s.dpl (offset dp + 1)) = true →
      s.readable (s.dpl (offset dp + 2)) = true →
      ∃ m, q.1 = .ok m ∧
        m.ea.toNat = ((s.byteAt (s.dpl (offset dp))).toNat + 256 * (s.byteAt (s.dpl (offset dp + 1))).toNat
          + 65536 * (s.byteAt (s.dpl (offset dp + 2))).toNat + q.2) % 2 ^ 24 ∧
        m.ea1.toNat = (m.ea.toNat + 1) % 2 ^ 24

/-- The Stack Relative modes on the 65816 (R147, R148): a 16-bit sum in bank 0, for `(sr,S),Y` holding a pointer to
bank `DBR` to which `Y` is added. `S` is read, not written: the mode answers an address only. The formulas are the
spec's own decisions D16 and D17 (log 16), the corners D18 (log 13). -/
def Obligations.StackModes : Prop :=
  ∀ (s : State) (sr : Byte), s.cfg.variant = .m65816 →
    ((s.cornersRefused && s.leavesPage1 sr 1) = false →
      ∃ m, eaSr sr s = .ok m ∧ m.ea.toNat = (s.s.toNat + sr.toNat) % 65536 ∧
        m.ea1.toNat = (s.s.toNat + sr.toNat + 1) % 65536) ∧
    ((s.cornersRefused && s.leavesPage1 sr 2) = false →
      ∀ a0 a1 : Addr, a0.toNat = (s.s.toNat + sr.toNat) % 65536 → a1.toNat = (s.s.toNat + sr.toNat + 1) % 65536 →
        s.readable a0 = true → s.readable a1 = true →
        ∃ m, eaSrIndY sr s = .ok m ∧
          m.ea.toNat = (s.dbr.toNat * 65536 + (s.byteAt a0).toNat + 256 * (s.byteAt a1).toNat + s.y.toNat) % 2 ^ 24 ∧
          m.ea1.toNat = (m.ea.toNat + 1) % 2 ^ 24)

/-- The corners of R151: with `EMU_DP_CORNERS` = `refuse`, on the 65816 in emulation mode, a pointer that would
straddle a page and a Stack Relative access that would leave page 1 are refused; with `as_given`, in native mode and on
the 8-bit processors no mode is refused by this rule: only for memory that is not plain. It is the spec's own
decision D18 (log 13). -/
def Obligations.EmulationCorners : Prop :=
  ∀ (s : State) (o : Byte),
    (s.cfg.variant = .m65816 → s.e = true → s.cfg.emuDpCorners = .refuse →
      ((s.d.toNat + o.toNat) % 256 = 0xFF →
        eaDpInd o s = .error .emuPointerWrap ∧ eaDpIndY o s = .error .emuPointerWrap) ∧
      ((s.d.toNat + o.toNat + s.x.toNat) % 256 = 0xFF → eaDpXInd o s = .error .emuPointerWrap) ∧
      (0xFE ≤ (s.d.toNat + o.toNat) % 256 →
        eaDpIndLong o s = .error .emuPointerWrap ∧ eaDpIndLongY o s = .error .emuPointerWrap) ∧
      (0xFF < s.s.toNat % 256 + o.toNat → eaSr o s = .error .emuStackRelative) ∧
      (0xFF < s.s.toNat % 256 + o.toNat + 1 → eaSrIndY o s = .error .emuStackRelative)) ∧
    (¬ (s.cfg.variant = .m65816 ∧ s.e = true ∧ s.cfg.emuDpCorners = .refuse) →
      ∀ mode ∈ [eaDpInd o s, eaDpIndY o s, eaDpXInd o s, eaDpIndLong o s, eaDpIndLongY o s, eaSr o s, eaSrIndY o s],
        ∀ r, mode = .error r → ∃ a, r = .notPlainMemory a)

/-- The index register of opcodes BE and B6 (R191 b, conflict C1): `Y` by default, `X` under the literal reading. The
default value `Y` of the parameter is R7's (log 10). It is the spec's own decision D3. -/
def Obligations.LdxIndexRegister : Prop :=
  ∀ (s : State) (addr : Word) (dp : Byte),
    (s.cfg.ldxIndex = .y → eaLdxAbs addr s = eaAbsY addr s ∧ eaLdxDp dp s = eaDpY dp s) ∧
    (s.cfg.ldxIndex = .x → eaLdxAbs addr s = eaAbsX addr s ∧ eaLdxDp dp s = eaDpX dp s) ∧
    ∀ v, (Config.standard v).ldxIndex = .y

/-! ### Loads -/

/-- LDA (R170), all 15 forms: the immediate at the width of the accumulator, the others through memory. That an
immediate too wide for its width is cut to its low byte is the model's choice (log 8), a cleared flag is D5 (log
17). -/
def Obligations.LoadAccumulator : Prop :=
  (∀ (k : Word) (s : State), ∃ t, exec (.ldaImm k) s = .next t ∧ AccHolds s.wA k.toNat s t ∧
    FlagsFollow s.wA k.toNat s t ∧ PcPast (if s.wA = .w8 then 2 else 3) s t ∧ SameMemory s t ∧
    t = { s with a := t.a, b := t.b, p := t.p, pc := t.pc }) ∧
  (∀ addr, LoadsA (.ldaAbs addr) 3 fun s => .ok (eaAbs addr s)) ∧
  (∀ long, LoadsA (.ldaLong long) 4 fun s => .ok (eaLong long s)) ∧
  (∀ dp, LoadsA (.ldaDp dp) 2 fun s => .ok (eaDp dp s)) ∧
  (∀ dp, LoadsA (.ldaDpInd dp) 2 (eaDpInd dp)) ∧
  (∀ dp, LoadsA (.ldaDpIndLong dp) 2 (eaDpIndLong dp)) ∧
  (∀ addr, LoadsA (.ldaAbsX addr) 3 fun s => .ok (eaAbsX addr s)) ∧
  (∀ long, LoadsA (.ldaLongX long) 4 fun s => .ok (eaLongX long s)) ∧
  (∀ addr, LoadsA (.ldaAbsY addr) 3 fun s => .ok (eaAbsY addr s)) ∧
  (∀ dp, LoadsA (.ldaDpX dp) 2 fun s => .ok (eaDpX dp s)) ∧
  (∀ dp, LoadsA (.ldaDpXInd dp) 2 (eaDpXInd dp)) ∧
  (∀ dp, LoadsA (.ldaDpIndY dp) 2 (eaDpIndY dp)) ∧
  (∀ dp, LoadsA (.ldaDpIndLongY dp) 2 (eaDpIndLongY dp)) ∧
  (∀ sr, LoadsA (.ldaSr sr) 2 (eaSr sr)) ∧
  ∀ sr, LoadsA (.ldaSrIndY sr) 2 (eaSrIndY sr)

/-- LDX (R190), all 5 forms, at the index datum width; the register is zero-extended. The datum width under both
values of `INDEX_WIDTH_FLAG` is the spec's decision D4, with the zero-extension under `m` the model's own (log 11).
The index of BE and B6 under both values of `LDX_INDEX` is D3 (log 10). That an immediate too wide for its width is
cut is the model's choice (log 8). -/
def Obligations.LoadIndexX : Prop :=
  (∀ (k : Word) (s : State), ∃ t, exec (.ldxImm k) s = .next t ∧ t.x.toNat = k.toNat % 2 ^ bits s.wI ∧
    FlagsFollow s.wI k.toNat s t ∧ PcPast (if s.wI = .w8 then 2 else 3) s t ∧ SameMemory s t ∧
    t = { s with x := t.x, p := t.p, pc := t.pc }) ∧
  (∀ addr, LoadsX (.ldxAbs addr) 3 fun s => .ok (eaAbs addr s)) ∧
  (∀ dp, LoadsX (.ldxDp dp) 2 fun s => .ok (eaDp dp s)) ∧
  (∀ addr, LoadsX (.ldxAbsY addr) 3 fun s => .ok (eaLdxAbs addr s)) ∧
  ∀ dp, LoadsX (.ldxDpY dp) 2 fun s => .ok (eaLdxDp dp s)

/-- LDY (R200), all 5 forms, at the index datum width; the register is zero-extended. The datum width under both
values of `INDEX_WIDTH_FLAG` is the spec's decision D4, with the zero-extension under `m` the model's own (log 11).
That an immediate too wide for its width is cut is the model's choice (log 8). -/
def Obligations.LoadIndexY : Prop :=
  (∀ (k : Word) (s : State), ∃ t, exec (.ldyImm k) s = .next t ∧ t.y.toNat = k.toNat % 2 ^ bits s.wI ∧
    FlagsFollow s.wI k.toNat s t ∧ PcPast (if s.wI = .w8 then 2 else 3) s t ∧ SameMemory s t ∧
    t = { s with y := t.y, p := t.p, pc := t.pc }) ∧
  (∀ addr, LoadsY (.ldyAbs addr) 3 fun s => .ok (eaAbs addr s)) ∧
  (∀ dp, LoadsY (.ldyDp dp) 2 fun s => .ok (eaDp dp s)) ∧
  (∀ addr, LoadsY (.ldyAbsX addr) 3 fun s => .ok (eaAbsX addr s)) ∧
  ∀ dp, LoadsY (.ldyDpX dp) 2 fun s => .ok (eaDpX dp s)

/-! ### Stores -/

/-- STA (R210), all 14 forms: `A` at width 8, `A` then `B` at width 16. -/
def Obligations.StoreAccumulator : Prop :=
  (∀ addr, Stores (.staAbs addr) 3 State.wA (fun s => s.b.toNat * 256 + s.a.toNat) fun s => .ok (eaAbs addr s)) ∧
  (∀ long, Stores (.staLong long) 4 State.wA (fun s => s.b.toNat * 256 + s.a.toNat) fun s => .ok (eaLong long s)) ∧
  (∀ dp, Stores (.staDp dp) 2 State.wA (fun s => s.b.toNat * 256 + s.a.toNat) fun s => .ok (eaDp dp s)) ∧
  (∀ dp, Stores (.staDpInd dp) 2 State.wA (fun s => s.b.toNat * 256 + s.a.toNat) (eaDpInd dp)) ∧
  (∀ dp, Stores (.staDpIndLong dp) 2 State.wA (fun s => s.b.toNat * 256 + s.a.toNat) (eaDpIndLong dp)) ∧
  (∀ addr, Stores (.staAbsX addr) 3 State.wA (fun s => s.b.toNat * 256 + s.a.toNat) fun s => .ok (eaAbsX addr s)) ∧
  (∀ long, Stores (.staLongX long) 4 State.wA (fun s => s.b.toNat * 256 + s.a.toNat)
    fun s => .ok (eaLongX long s)) ∧
  (∀ addr, Stores (.staAbsY addr) 3 State.wA (fun s => s.b.toNat * 256 + s.a.toNat) fun s => .ok (eaAbsY addr s)) ∧
  (∀ dp, Stores (.staDpX dp) 2 State.wA (fun s => s.b.toNat * 256 + s.a.toNat) fun s => .ok (eaDpX dp s)) ∧
  (∀ dp, Stores (.staDpXInd dp) 2 State.wA (fun s => s.b.toNat * 256 + s.a.toNat) (eaDpXInd dp)) ∧
  (∀ dp, Stores (.staDpIndY dp) 2 State.wA (fun s => s.b.toNat * 256 + s.a.toNat) (eaDpIndY dp)) ∧
  (∀ dp, Stores (.staDpIndLongY dp) 2 State.wA (fun s => s.b.toNat * 256 + s.a.toNat) (eaDpIndLongY dp)) ∧
  (∀ sr, Stores (.staSr sr) 2 State.wA (fun s => s.b.toNat * 256 + s.a.toNat) (eaSr sr)) ∧
  ∀ sr, Stores (.staSrIndY sr) 2 State.wA (fun s => s.b.toNat * 256 + s.a.toNat) (eaSrIndY sr)

/-- STX (R230), all 3 forms, at the index datum width. The width stored under both values of `INDEX_WIDTH_FLAG` is
the spec's decision D4 (log 11). -/
def Obligations.StoreIndexX : Prop :=
  (∀ addr, Stores (.stxAbs addr) 3 State.wI (fun s => s.x.toNat) fun s => .ok (eaAbs addr s)) ∧
  (∀ dp, Stores (.stxDp dp) 2 State.wI (fun s => s.x.toNat) fun s => .ok (eaDp dp s)) ∧
  ∀ dp, Stores (.stxDpY dp) 2 State.wI (fun s => s.x.toNat) fun s => .ok (eaDpY dp s)

/-- STY (R240), all 3 forms, at the index datum width. The width stored under both values of `INDEX_WIDTH_FLAG` is
the spec's decision D4 (log 11). -/
def Obligations.StoreIndexY : Prop :=
  (∀ addr, Stores (.styAbs addr) 3 State.wI (fun s => s.y.toNat) fun s => .ok (eaAbs addr s)) ∧
  (∀ dp, Stores (.styDp dp) 2 State.wI (fun s => s.y.toNat) fun s => .ok (eaDp dp s)) ∧
  ∀ dp, Stores (.styDpX dp) 2 State.wI (fun s => s.y.toNat) fun s => .ok (eaDpX dp s)

/-- STZ (R250), all 4 forms: zero at the accumulator width. -/
def Obligations.StoreZero : Prop :=
  (∀ addr, Stores (.stzAbs addr) 3 State.wA (fun _ => 0) fun s => .ok (eaAbs addr s)) ∧
  (∀ dp, Stores (.stzDp dp) 2 State.wA (fun _ => 0) fun s => .ok (eaDp dp s)) ∧
  (∀ addr, Stores (.stzAbsX addr) 3 State.wA (fun _ => 0) fun s => .ok (eaAbsX addr s)) ∧
  ∀ dp, Stores (.stzDpX dp) 2 State.wA (fun _ => 0) fun s => .ok (eaDpX dp s)

/-! ### Transfers -/

/-- TAX and TAY (R260, R261): at `wX` = 8 the index takes `A`, at `wX` = 16 it takes `{B, A}`, whatever m is. -/
def Obligations.AccumulatorToIndex : Prop :=
  OneByte .tax 0xAA .all ∧ OneByte .tay 0xA8 .all ∧
  Transfers .tax (fun s t =>
    t.x.toNat = (if s.wX = .w8 then s.a.toNat else s.b.toNat * 256 + s.a.toNat) ∧
    FlagsFollow s.wX t.x.toNat s t ∧ t = { s with x := t.x, p := t.p, pc := t.pc }) ∧
  Transfers .tay (fun s t =>
    t.y.toNat = (if s.wX = .w8 then s.a.toNat else s.b.toNat * 256 + s.a.toNat) ∧
    FlagsFollow s.wX t.y.toNat s t ∧ t = { s with y := t.y, p := t.p, pc := t.pc })

/-- TCD (R262): `D` takes all of `C`, the flags are those of 16 bits, in every mode. That the flags have width 16 is
the spec's own inference ("the value transferred is 16-bit"). Availability on the 65816 only is D2 (log 21), the
refusal elsewhere D22 (log 26), and that `exec` refuses is the model's (log 7). -/
def Obligations.AccumulatorToDirectPage : Prop :=
  OneByte .tcd 0x5B .only65816 ∧
  Transfers .tcd (fun s t =>
    t.d.toNat = s.b.toNat * 256 + s.a.toNat ∧ FlagsFollow .w16 t.d.toNat s t ∧
    t = { s with d := t.d, p := t.p, pc := t.pc })

/-- TCS (R263): native mode takes all of `C`; emulation mode keeps the stack in page 1 unless `EMU_STACK_PAGE` is off;
no flag changes. The emulation-mode case is the spec's own decisions D9 and D10 (log 12). Availability on the 65816
only is D2 (log 21), the refusal elsewhere D22 (log 26), and that `exec` refuses is the model's (log 7). -/
def Obligations.AccumulatorToStackPointer : Prop :=
  OneByte .tcs 0x1B .only65816 ∧
  Transfers .tcs (fun s t =>
    t.s.toNat = (if s.e = true ∧ s.cfg.emuStackPage = true then 0x100 + s.a.toNat else s.b.toNat * 256 + s.a.toNat) ∧
    t = { s with s := t.s, pc := t.pc })

/-- TDC and TSC (R264, R265): `C` takes all 16 bits, `B` written whatever m is, the flags those of 16 bits. That the
flags have width 16 is the spec's own inference ("the value transferred is 16-bit"). Availability on the 65816 only
is D2 (log 21), the refusal elsewhere D22 (log 26), and that `exec` refuses is the model's (log 7). -/
def Obligations.SixteenBitsToAccumulator : Prop :=
  OneByte .tdc 0x7B .only65816 ∧ OneByte .tsc 0x3B .only65816 ∧
  Transfers .tdc (fun s t =>
    t.a.toNat = s.d.toNat % 256 ∧ t.b.toNat = s.d.toNat / 256 ∧ FlagsFollow .w16 s.d.toNat s t ∧
    t = { s with a := t.a, b := t.b, p := t.p, pc := t.pc }) ∧
  Transfers .tsc (fun s t =>
    t.a.toNat = s.s.toNat % 256 ∧ t.b.toNat = s.s.toNat / 256 ∧ FlagsFollow .w16 s.s.toNat s t ∧
    t = { s with a := t.a, b := t.b, p := t.p, pc := t.pc })

/-- TSX (R266): the low byte of `S` at `wX` = 8, all of it at `wX` = 16. For the 65816 with x = 1 the rule says "The
source does not give the case 65816 with x = 1; the spec transfers the low byte, as for the 8-bit processors, since
`X` is then 8 bits wide", an inference it marks as its own. -/
def Obligations.StackPointerToIndex : Prop :=
  OneByte .tsx 0xBA .all ∧
  Transfers .tsx (fun s t =>
    t.x.toNat = (if s.wX = .w8 then s.s.toNat % 256 else s.s.toNat) ∧ FlagsFollow s.wX t.x.toNat s t ∧
    t = { s with x := t.x, p := t.p, pc := t.pc })

/-- TXA and TYA (R267, R270): the accumulator takes the index at the accumulator width, `B` kept at width 8; from an
8-bit index register to a 16-bit accumulator the high byte is 0 (R259). -/
def Obligations.IndexToAccumulator : Prop :=
  OneByte .txa 0x8A .all ∧ OneByte .tya 0x98 .all ∧
  Transfers .txa (fun s t =>
    AccHolds s.wA s.x.toNat s t ∧ FlagsFollow s.wA s.x.toNat s t ∧
    (s.WellFormed → s.wX = .w8 → s.wA = .w16 → t.b = 0) ∧
    t = { s with a := t.a, b := t.b, p := t.p, pc := t.pc }) ∧
  Transfers .tya (fun s t =>
    AccHolds s.wA s.y.toNat s t ∧ FlagsFollow s.wA s.y.toNat s t ∧
    (s.WellFormed → s.wX = .w8 → s.wA = .w16 → t.b = 0) ∧
    t = { s with a := t.a, b := t.b, p := t.p, pc := t.pc })

/-- TXS (R268): the low byte in page 1 on the 8-bit processors and in emulation mode (in page 0 with `EMU_STACK_PAGE`
off), the low byte with a zero high byte in native mode at `wX` = 8, `X` at `wX` = 16; no flag changes. The fixed
stack page is the spec's own decisions D9 and D10 (log 12). -/
def Obligations.IndexToStackPointer : Prop :=
  OneByte .txs 0x9A .all ∧
  Transfers .txs (fun s t =>
    t.s.toNat = (if s.cfg.variant ≠ .m65816 ∨ s.e = true then
        (if s.cfg.emuStackPage = true then 0x100 else 0) + s.x.toNat % 256
      else if s.wX = .w8 then s.x.toNat % 256 else s.x.toNat) ∧
    t = { s with s := t.s, pc := t.pc })

/-- TXY and TYX (R269, R271): the whole container moves, the flags are those of `wX`. That they exist on the 65816
only is the spec's decision D2 (log 21), the refusal elsewhere is D22 (log 26), and that `exec` refuses is the
model's (log 7). -/
def Obligations.IndexToIndex : Prop :=
  OneByte .txy 0x9B .only65816 ∧ OneByte .tyx 0xBB .only65816 ∧
  Transfers .txy (fun s t => t.y = s.x ∧ FlagsFollow s.wX s.x.toNat s t ∧
    t = { s with y := t.y, p := t.p, pc := t.pc }) ∧
  Transfers .tyx (fun s t => t.x = s.y ∧ FlagsFollow s.wX s.y.toNat s t ∧
    t = { s with x := t.x, p := t.p, pc := t.pc })

/-- XBA (R272): `A` and `B` change places, the flags are those of the new 8-bit `A` at every width. That it exists
on the 65816 only is the spec's decision D2 (log 21), the refusal elsewhere is D22 (log 26), and that `exec` refuses
is the model's (log 7). -/
def Obligations.ExchangeAccumulators : Prop :=
  OneByte .xba 0xEB .only65816 ∧
  Transfers .xba (fun s t => t.a = s.b ∧ t.b = s.a ∧ FlagsFollow .w8 s.b.toNat s t ∧
    t = { s with a := t.a, b := t.b, p := t.p, pc := t.pc })

/-- Law W8: two XBA restore `A` and `B`; TAX then TXA restores `A`, and leaves `B` but for a 16-bit accumulator with
8-bit index registers (where R259 zeroes it); TXY then TYX is the same as TXY. All of them complete. Where the law's
parenthesis and the width rule differ, the width rule is followed (log 28). -/
def Obligations.TransferRoundTrips : Prop :=
  (∀ s : State, s.cfg.variant = .m65816 →
    ∃ t u, exec .xba s = .next t ∧ exec .xba t = .next u ∧ u.a = s.a ∧ u.b = s.b) ∧
  (∀ s : State, ∃ t u, exec .tax s = .next t ∧ exec .txa t = .next u ∧ u.a = s.a ∧
    (¬ (s.wA = .w16 ∧ s.wX = .w8) → u.b = s.b)) ∧
  ∀ s : State, s.cfg.variant = .m65816 →
    ∃ t u, exec .txy s = .next t ∧ exec .tyx t = .next u ∧ u.x = t.x ∧ u.y = t.y ∧ u.p = t.p

/-! ### The whole machine -/

/-- Law W2 (with R42, R43, R337): no instruction writes `DBR`, `PBR`, `e`, the configuration or a bit of `P` other than
n and z, so the decoding context never changes; only TCD writes `D`, only TCS and TXS write `S`. What the patterns
leave unaffected is the spec's own reading D5 (log 17). -/
def Obligations.SystemRegistersKept : Prop :=
  ∀ (i : Instr) (s t : State), exec i s = .next t →
    t.dbr = s.dbr ∧ t.pbr = s.pbr ∧ t.e = s.e ∧ t.cfg = s.cfg ∧ t.ctx = s.ctx ∧
    (∀ k, k ≠ 7 → k ≠ 1 → t.p.getLsbD k = s.p.getLsbD k) ∧
    (i ≠ .tcd → t.d = s.d) ∧ (i ≠ .tcs → i ≠ .txs → t.s = s.s)

/-- Laws W3 and W4: the 24 stores change memory and `PC` only, every other instruction changes no byte of memory, and
TCS and TXS change no flag. What the patterns leave unaffected is the spec's own reading D5 (log 17). -/
def Obligations.StoresAloneWriteMemory : Prop :=
  ∀ (i : Instr) (s t : State), exec i s = .next t →
    (i.opcode ∈ [0x8D#8, 0x8F#8, 0x85#8, 0x92#8, 0x87#8, 0x9D#8, 0x9F#8, 0x99#8, 0x95#8, 0x81#8, 0x91#8, 0x97#8, 0x83#8,
        0x93#8, 0x8E#8, 0x86#8, 0x96#8, 0x8C#8, 0x84#8, 0x94#8, 0x9C#8, 0x64#8, 0x9E#8, 0x74#8] →
      t = { s with mem := t.mem, pc := t.pc }) ∧
    (i.opcode ∉ [0x8D#8, 0x8F#8, 0x85#8, 0x92#8, 0x87#8, 0x9D#8, 0x9F#8, 0x99#8, 0x95#8, 0x81#8, 0x91#8, 0x97#8, 0x83#8,
        0x93#8, 0x8E#8, 0x86#8, 0x96#8, 0x8C#8, 0x84#8, 0x94#8, 0x9C#8, 0x64#8, 0x9E#8, 0x74#8] →
      SameMemory s t) ∧
    (i = .tcs ∨ i = .txs → t.p = s.p)

/-- Every instruction maps well-formed states to well-formed states (R47), under the default reading of
`INDEX_WIDTH_FLAG`. It is an inference the spec marks as derived (D8, log 15; D9, log 12; D4, log 11). -/
def Obligations.WellFormedKept : Prop :=
  ∀ (i : Instr) (s t : State), s.WellFormed → s.cfg.indexWidthFlag = .x → exec i s = .next t → t.WellFormed

/-- The invariant that every step keeps: well formed (R47), memory in canonical form and inside the variant's address
space (R70), the default reading of `INDEX_WIDTH_FLAG`. The canonical form of memory is the model's own choice (log
2). -/
def Obligations.StepKeepsInvariant : Prop := ∀ s t : State, s.Inv → step s = .next t → t.Inv

/-- The invariant holds right after reset, on every variant. The reset values are the spec's information (D26, log
5) and the model's choices (log 4). -/
def Obligations.InvariantAtReset : Prop := State.reset.Inv ∧ ∀ v, (State.resetFor v).Inv

/-- Every instruction the variant has completes where every address can be read and, for a store, written (R300: every
operand value, address, alignment and register value is legal), outside the corner conditions of R151. That no
operand, address or alignment traps is the spec's own decisions D14 (log 25) and D23 (log 18), the corners are D18
(log 13). -/
def Obligations.EveryInstructionCompletes : Prop :=
  ∀ (i : Instr) (s : State), i.avail.allows s.cfg.variant = true →
    s.PlainMemory (fun _ => True) (fun _ => (storeAt s i).isSome = true) →
    (∀ r, ¬ OpenCorner s i r) → ∃ t, exec i s = .next t

/-- The refusal reasons of a step are those of R302, each under its condition, and the refusal that R303 asks for: the
byte at `PC` for the two reasons about opcodes, the instruction standing at `PC` in the corner for R151, an address
that cannot be read for a fetch, a pointer or a load, and one of the store's own bytes that cannot be written. The
refusals are the spec's own decisions D18, D22, D24 and D30 (logs 13, 26, 18, 3). -/
def Obligations.RefusalsAreListed : Prop :=
  ∀ (s : State) (r : Refusal), step s = .refused r →
    (r = .asyncEvents ∧ s.cfg.interrupts = true) ∨
    (r = .opcodeNotInSpec (s.byteAt (s.fetchAddr 0)) ∧ ∀ i : Instr, i.opcode ≠ s.byteAt (s.fetchAddr 0)) ∨
    (r = .opcodeNotAvailable (s.byteAt (s.fetchAddr 0)) s.cfg.variant ∧
      ∃ i : Instr, i.opcode = s.byteAt (s.fetchAddr 0) ∧ i.avail.allows s.cfg.variant = false) ∨
    (∃ i : Instr, i.wf s.ctx = true ∧ s.CodeAt s.pc (encode s.ctx i) ∧ OpenCorner s i r) ∨
    (∃ a, r = .notPlainMemory a ∧ s.readable a = false) ∨
    ∃ (i : Instr) (w : Width) (m : EA) (a : Addr), i.wf s.ctx = true ∧ s.CodeAt s.pc (encode s.ctx i) ∧
      storeAt s i = some (w, .ok m) ∧ Touches w m a ∧ r = .notPlainMemory a ∧ s.writable a = false

/-- On the 8-bit processors nothing depends on the registers they lack (R30): changing `B`, `D`, `DBR`, `PBR` and `e`
changes neither what an instruction does nor whether it completes. That the fields exist on those processors is the
model's own choice (log 9). -/
def Obligations.AbsentRegistersUnseen : Prop :=
  ∀ (i : Instr) (s : State) (b : Byte) (d : Word) (dbr pbr : Byte) (e : Bool), s.cfg.variant ≠ .m65816 →
    exec i { s with b := b, d := d, dbr := dbr, pbr := pbr, e := e } =
      mapNext (fun t => { t with b := b, d := d, dbr := dbr, pbr := pbr, e := e }) (exec i s)

/-- The 6502 and the 65C02 agree on every instruction both have (R338). It is general knowledge that the spec
supplies, and D2 (log 21). -/
def Obligations.SameOnEightBitProcessors : Prop :=
  ∀ (i : Instr) (s : State), i.avail = .all → s.cfg.variant = .m6502 →
    exec i { s with cfg := { s.cfg with variant := .m65C02 } } =
      mapNext (fun t => { t with cfg := { t.cfg with variant := .m65C02 } }) (exec i s)

/-! ### Timing beside the machine, and reset -/

/-- The source's cycle counts (R341), of every instruction with every operand: the base count; one more on the 65816
where the row has the width note and the datum is 16 bits wide (`wA`, or the index datum width); one more where it has
the Direct Page note and `DL` is not 0; one more where it has the page-crossing note and adding the index to the base,
which stand as a pair, leads to another page (R139, R141, R145). The pointer `p` of `(dp),Y` and the index `ix` of
opcode BE are written out. The counts stand beside the machine, the spec's own decision D29 (log 20); the index
width is D4 (log 11), the index of BE D3 (log 10), the page-crossing formulas D16 (log 16). -/
def Obligations.CycleCounts : Prop :=
  ∀ (s : State) (k addr : Word) (long : Addr) (o : Byte) (p ix : Nat),
    p = (s.byteAt (s.dpa (offset o))).toNat + 256 * (s.byteAt (s.dpa (offset o + 1))).toNat →
    ix = (if s.cfg.ldxIndex = .y then s.y.toNat else s.x.toNat) →
    ∀ q ∈ [(Instr.ldaImm k, 2, some s.wA, false, (0, 0)), (.ldaAbs addr, 4, some s.wA, false, (0, 0)),
      (.ldaLong long, 5, some s.wA, false, (0, 0)), (.ldaDp o, 3, some s.wA, true, (0, 0)),
      (.ldaDpInd o, 5, some s.wA, true, (0, 0)), (.ldaDpIndLong o, 6, some s.wA, true, (0, 0)),
      (.ldaAbsX addr, 4, some s.wA, false, (addr.toNat, s.x.toNat)), (.ldaLongX long, 5, some s.wA, false, (0, 0)),
      (.ldaAbsY addr, 4, some s.wA, false, (addr.toNat, s.y.toNat)), (.ldaDpX o, 4, some s.wA, true, (0, 0)),
      (.ldaDpXInd o, 6, some s.wA, true, (0, 0)), (.ldaDpIndY o, 5, some s.wA, true, (p, s.y.toNat)),
      (.ldaDpIndLongY o, 6, some s.wA, true, (0, 0)), (.ldaSr o, 4, some s.wA, false, (0, 0)),
      (.ldaSrIndY o, 7, some s.wA, false, (0, 0)), (.ldxImm k, 2, some s.wI, false, (0, 0)),
      (.ldxAbs addr, 4, some s.wI, false, (0, 0)), (.ldxDp o, 3, some s.wI, true, (0, 0)),
      (.ldxAbsY addr, 4, some s.wI, false, (addr.toNat, ix)), (.ldxDpY o, 4, some s.wI, true, (0, 0)),
      (.ldyImm k, 2, some s.wI, false, (0, 0)), (.ldyAbs addr, 4, some s.wI, false, (0, 0)),
      (.ldyDp o, 3, some s.wI, true, (0, 0)), (.ldyAbsX addr, 4, some s.wI, false, (addr.toNat, s.x.toNat)),
      (.ldyDpX o, 4, some s.wI, true, (0, 0)), (.staAbs addr, 4, some s.wA, false, (0, 0)),
      (.staLong long, 5, some s.wA, false, (0, 0)), (.staDp o, 3, some s.wA, true, (0, 0)),
      (.staDpInd o, 5, some s.wA, true, (0, 0)), (.staDpIndLong o, 6, some s.wA, true, (0, 0)),
      (.staAbsX addr, 4, some s.wA, false, (0, 0)), (.staLongX long, 5, some s.wA, false, (0, 0)),
      (.staAbsY addr, 4, some s.wA, false, (0, 0)), (.staDpX o, 4, some s.wA, true, (0, 0)),
      (.staDpXInd o, 6, some s.wA, true, (0, 0)), (.staDpIndY o, 5, some s.wA, true, (0, 0)),
      (.staDpIndLongY o, 6, some s.wA, true, (0, 0)), (.staSr o, 4, some s.wA, false, (0, 0)),
      (.staSrIndY o, 7, some s.wA, false, (0, 0)), (.stxAbs addr, 4, some s.wI, false, (0, 0)),
      (.stxDp o, 3, some s.wI, true, (0, 0)), (.stxDpY o, 4, some s.wI, true, (0, 0)),
      (.styAbs addr, 4, some s.wI, false, (0, 0)), (.styDp o, 3, some s.wI, true, (0, 0)),
      (.styDpX o, 4, some s.wI, true, (0, 0)), (.stzAbs addr, 4, some s.wA, false, (0, 0)),
      (.stzDp o, 3, some s.wA, true, (0, 0)), (.stzAbsX addr, 5, some s.wA, false, (0, 0)),
      (.stzDpX o, 4, some s.wA, true, (0, 0)), (.tax, 2, none, false, (0, 0)), (.tay, 2, none, false, (0, 0)),
      (.tcd, 2, none, false, (0, 0)), (.tcs, 2, none, false, (0, 0)), (.tdc, 2, none, false, (0, 0)),
      (.tsc, 2, none, false, (0, 0)), (.tsx, 2, none, false, (0, 0)), (.txa, 2, none, false, (0, 0)),
      (.txs, 2, none, false, (0, 0)), (.txy, 2, none, false, (0, 0)), (.tya, 2, none, false, (0, 0)),
      (.tyx, 2, none, false, (0, 0)), (.xba, 2, none, false, (0, 0))],
      cycles q.1 s = q.2.1
        + (if s.cfg.variant = .m65816 ∧ q.2.2.1 = some .w16 then 1 else 0)
        + (if q.2.2.2.1 = true ∧ s.cfg.variant = .m65816 ∧ s.d.toNat % 256 ≠ 0 then 1 else 0)
        + (if (q.2.2.2.2.1 + q.2.2.2.2.2) / 256 ≠ q.2.2.2.2.1 / 256 then 1 else 0)

/-- What R49 tabulates of the state after reset, on every variant: the fixed values, and `PC` from the vector. (The
values of what R49 calls unspecified are the model's choice, log 4, and are not stated.) The table is general
knowledge that the spec supplies, not a rule of the launch state (D26, log 5). -/
def Obligations.ResetValues : Prop :=
  ∀ v : Variant,
    (State.resetFor v).x.toNat / 256 = 0 ∧ (State.resetFor v).y.toNat / 256 = 0 ∧
    (State.resetFor v).s.toNat / 256 = 1 ∧ (State.resetFor v).d = 0 ∧ (State.resetFor v).dbr = 0 ∧
    (State.resetFor v).pbr = 0 ∧ (State.resetFor v).e = true ∧ (State.resetFor v).flagI = true ∧
    (v ≠ .m6502 → (State.resetFor v).flagD = false) ∧ (State.resetFor v).flagM = true ∧
    (State.resetFor v).flagX = true ∧
    (State.resetFor v).pc.toNat =
      ((State.resetFor v).byteAt 0xFFFC).toNat + 256 * ((State.resetFor v).byteAt 0xFFFD).toNat

/-! ### Launch premises and corners -/

/-- What the launch premises of R331 say of a state, every instruction that completes leaves true: the variant, the
mode, the absence of interrupts, plain memory; and code at any base, unless the instruction stores into it. The
launch premises are the spec's own decision D26 (log 27). -/
def Obligations.LaunchPremisesKept : Prop :=
  ∀ (i : Instr) (s t : State), exec i s = .next t →
    (∀ v, s.VariantIs v → t.VariantIs v) ∧ (∀ e m x, s.ModeIs e m x → t.ModeIs e m x) ∧
    (s.NoAsyncEvents → t.NoAsyncEvents) ∧
    (∀ reads writes, s.PlainMemory reads writes → t.PlainMemory reads writes) ∧
    ∀ base bytes, s.CodeAt base bytes →
      (∀ w m, storeAt s i = some (w, .ok m) → ∀ k < bytes.length, ¬ Touches w m (s.codeAddr base k)) →
      t.CodeAt base bytes

/-- The corners of R151 are refused exactly: an available instruction is refused for a corner's reason when, and only
when, it stands in that corner, whatever memory is. It is the spec's own decision D18 (log 13). -/
def Obligations.CornersRefusedExactly : Prop :=
  ∀ (i : Instr) (s : State), i.avail.allows s.cfg.variant = true →
    ∀ r ∈ [Refusal.emuPointerWrap, .emuStackRelative], exec i s = .refused r ↔ OpenCorner s i r

end
end

