-- ==== Sys2Proof/Laws/Memory.lean ====
section
/-!
SUPPORT. The laws of memory as a list of cells: a read after a write, and the canonical form that every write keeps.
-/

namespace Sys2Proof.Machine

theorem Memory.read_insert (m : Memory) (a : Nat) (v : Byte) (h : ∀ c ∈ m, c.1 ≠ a) (b : Nat) :
    Memory.read (Memory.insert a v m) b = if a = b then v else Memory.read m b := by
  induction m with
  | nil => simp [Memory.insert, Memory.read]
  | cons c m ih =>
    obtain ⟨k, w⟩ := c
    have hk : k ≠ a := h (k, w) (by simp)
    have ih' := ih fun c hc => h c (by simp [hc])
    unfold Memory.insert
    split
    · simp [Memory.read]
    · simp only [Memory.read, ih']
      by_cases h1 : k = b
      · subst h1; simp [Ne.symm hk]
      · simp [h1]

theorem Memory.read_filter (m : Memory) (a b : Nat) :
    Memory.read (m.filter fun c => c.1 != a) b = if a = b then Memory.unlisted else Memory.read m b := by
  induction m with
  | nil => simp [Memory.read]
  | cons c m ih =>
    obtain ⟨k, w⟩ := c
    simp only [List.filter_cons]
    by_cases h : k = a
    · subst h
      simp only [bne_self_eq_false, Bool.false_eq_true, if_false, ih, Memory.read]
      by_cases h1 : k = b <;> simp [h1]
    · have : ((k != a) : Bool) = true := by simpa using h
      simp only [this, if_true, Memory.read, ih]
      by_cases h1 : k = b
      · subst h1; simp [Ne.symm h]
      · simp [h1]

/-- A read after a write: the value at the address written, every other address as before. It holds of every list of
cells, canonical or not. -/
theorem Memory.read_write (m : Memory) (a : Nat) (v : Byte) (b : Nat) :
    Memory.read (Memory.write m a v) b = if a = b then v else Memory.read m b := by
  unfold Memory.write
  simp only
  split
  · rename_i hv
    rw [Memory.read_filter, hv]
  · rw [Memory.read_insert _ _ _ (by simp), Memory.read_filter]
    by_cases h : a = b <;> simp [h]

theorem Memory.mem_insert (m : Memory) (a : Nat) (v : Byte) (c : Host.Cell) :
    c ∈ Memory.insert a v m ↔ c = (a, v) ∨ c ∈ m := by
  induction m with
  | nil => simp [Memory.insert]
  | cons d m ih =>
    obtain ⟨k, w⟩ := d
    unfold Memory.insert
    split
    · simp
    · simp only [List.mem_cons, ih]
      tauto

theorem Memory.insert_sorted (m : Memory) (a : Nat) (v : Byte) (h : ∀ c ∈ m, c.1 ≠ a)
    (hs : m.Pairwise fun p q => p.1 < q.1) : (Memory.insert a v m).Pairwise fun p q => p.1 < q.1 := by
  induction m with
  | nil => simp [Memory.insert]
  | cons d m ih =>
    obtain ⟨k, w⟩ := d
    have hk : k ≠ a := h (k, w) (by simp)
    rw [List.pairwise_cons] at hs
    unfold Memory.insert
    split
    · rename_i hlt
      refine List.pairwise_cons.2 ⟨?_, List.pairwise_cons.2 hs⟩
      intro c hc
      rcases List.mem_cons.1 hc with rfl | hc
      · exact hlt
      · exact Nat.lt_trans hlt (hs.1 c hc)
    · refine List.pairwise_cons.2 ⟨?_, ih (fun c hc => h c (by simp [hc])) hs.2⟩
      intro c hc
      rcases (Memory.mem_insert _ _ _ _).1 hc with rfl | hc
      · simp only; omega
      · exact hs.1 c hc

/-- Every cell of a memory after a write is the cell written or was there before. -/
theorem Memory.mem_write (m : Memory) (a : Nat) (v : Byte) (c : Host.Cell) (h : c ∈ Memory.write m a v) :
    c = (a, v) ∨ c ∈ m := by
  unfold Memory.write at h
  simp only at h
  split at h
  · exact .inr (List.mem_of_mem_filter h)
  · rcases (Memory.mem_insert _ _ _ _).1 h with h | h
    · exact .inl h
    · exact .inr (List.mem_of_mem_filter h)

/-- A write keeps the canonical form. -/
theorem Memory.write_wf (m : Memory) (a : Nat) (v : Byte) (h : m.wf) : (Memory.write m a v).wf := by
  refine ⟨?_, ?_⟩
  · unfold Memory.write
    simp only
    have hf : (m.filter fun c => c.1 != a).Pairwise fun p q => p.1 < q.1 := h.1.filter _
    split
    · exact hf
    · exact Memory.insert_sorted _ _ _ (by simp) hf
  · intro c hc
    by_cases hv : v = Memory.unlisted
    · have : Memory.write m a v = m.filter fun c => c.1 != a := by simp [Memory.write, hv]
      rw [this] at hc
      exact h.2 c (List.mem_of_mem_filter hc)
    · rcases Memory.mem_write _ _ _ _ hc with rfl | hc
      · exact hv
      · exact h.2 c hc

/-- The memory right after reset is in canonical form. -/
theorem State.reset_mem_wf : State.reset.mem.wf := by decide

end Sys2Proof.Machine
end

