-- ==== Sys2Proof/Laws/State.lean ====
section
/-!
SUPPORT. One lemma per field per update of the state, so that no proof unfolds a record update, and what the flag
update leaves of the accessors of `P`.
-/

namespace Sys2Proof.Machine

/-! ### `State.putNZ` -/

@[simp] theorem State.putNZ_a (s : State) (w : Width) (v : Word) : (s.putNZ w v).a = s.a := rfl
@[simp] theorem State.putNZ_b (s : State) (w : Width) (v : Word) : (s.putNZ w v).b = s.b := rfl
@[simp] theorem State.putNZ_x (s : State) (w : Width) (v : Word) : (s.putNZ w v).x = s.x := rfl
@[simp] theorem State.putNZ_y (s : State) (w : Width) (v : Word) : (s.putNZ w v).y = s.y := rfl
@[simp] theorem State.putNZ_s (s : State) (w : Width) (v : Word) : (s.putNZ w v).s = s.s := rfl
@[simp] theorem State.putNZ_d (s : State) (w : Width) (v : Word) : (s.putNZ w v).d = s.d := rfl
@[simp] theorem State.putNZ_dbr (s : State) (w : Width) (v : Word) : (s.putNZ w v).dbr = s.dbr := rfl
@[simp] theorem State.putNZ_pbr (s : State) (w : Width) (v : Word) : (s.putNZ w v).pbr = s.pbr := rfl
@[simp] theorem State.putNZ_pc (s : State) (w : Width) (v : Word) : (s.putNZ w v).pc = s.pc := rfl
@[simp] theorem State.putNZ_p (s : State) (w : Width) (v : Word) : (s.putNZ w v).p = setNZ w v s.p := rfl
@[simp] theorem State.putNZ_e (s : State) (w : Width) (v : Word) : (s.putNZ w v).e = s.e := rfl
@[simp] theorem State.putNZ_mem (s : State) (w : Width) (v : Word) : (s.putNZ w v).mem = s.mem := rfl
@[simp] theorem State.putNZ_cfg (s : State) (w : Width) (v : Word) : (s.putNZ w v).cfg = s.cfg := rfl

/-! ### `State.putC` -/

@[simp] theorem State.putC_a (s : State) (v : Word) : (s.putC v).a = loByte v := rfl
@[simp] theorem State.putC_b (s : State) (v : Word) : (s.putC v).b = hiByte v := rfl
@[simp] theorem State.putC_x (s : State) (v : Word) : (s.putC v).x = s.x := rfl
@[simp] theorem State.putC_y (s : State) (v : Word) : (s.putC v).y = s.y := rfl
@[simp] theorem State.putC_s (s : State) (v : Word) : (s.putC v).s = s.s := rfl
@[simp] theorem State.putC_d (s : State) (v : Word) : (s.putC v).d = s.d := rfl
@[simp] theorem State.putC_dbr (s : State) (v : Word) : (s.putC v).dbr = s.dbr := rfl
@[simp] theorem State.putC_pbr (s : State) (v : Word) : (s.putC v).pbr = s.pbr := rfl
@[simp] theorem State.putC_pc (s : State) (v : Word) : (s.putC v).pc = s.pc := rfl
@[simp] theorem State.putC_p (s : State) (v : Word) : (s.putC v).p = s.p := rfl
@[simp] theorem State.putC_e (s : State) (v : Word) : (s.putC v).e = s.e := rfl
@[simp] theorem State.putC_mem (s : State) (v : Word) : (s.putC v).mem = s.mem := rfl
@[simp] theorem State.putC_cfg (s : State) (v : Word) : (s.putC v).cfg = s.cfg := rfl

/-! ### `State.putX` -/

@[simp] theorem State.putX_a (s : State) (w : Width) (v : Word) : (s.putX w v).a = s.a := rfl
@[simp] theorem State.putX_b (s : State) (w : Width) (v : Word) : (s.putX w v).b = s.b := rfl
@[simp] theorem State.putX_x (s : State) (w : Width) (v : Word) : (s.putX w v).x = trunc w v := rfl
@[simp] theorem State.putX_y (s : State) (w : Width) (v : Word) : (s.putX w v).y = s.y := rfl
@[simp] theorem State.putX_s (s : State) (w : Width) (v : Word) : (s.putX w v).s = s.s := rfl
@[simp] theorem State.putX_d (s : State) (w : Width) (v : Word) : (s.putX w v).d = s.d := rfl
@[simp] theorem State.putX_dbr (s : State) (w : Width) (v : Word) : (s.putX w v).dbr = s.dbr := rfl
@[simp] theorem State.putX_pbr (s : State) (w : Width) (v : Word) : (s.putX w v).pbr = s.pbr := rfl
@[simp] theorem State.putX_pc (s : State) (w : Width) (v : Word) : (s.putX w v).pc = s.pc := rfl
@[simp] theorem State.putX_p (s : State) (w : Width) (v : Word) : (s.putX w v).p = s.p := rfl
@[simp] theorem State.putX_e (s : State) (w : Width) (v : Word) : (s.putX w v).e = s.e := rfl
@[simp] theorem State.putX_mem (s : State) (w : Width) (v : Word) : (s.putX w v).mem = s.mem := rfl
@[simp] theorem State.putX_cfg (s : State) (w : Width) (v : Word) : (s.putX w v).cfg = s.cfg := rfl

/-! ### `State.putY` -/

@[simp] theorem State.putY_a (s : State) (w : Width) (v : Word) : (s.putY w v).a = s.a := rfl
@[simp] theorem State.putY_b (s : State) (w : Width) (v : Word) : (s.putY w v).b = s.b := rfl
@[simp] theorem State.putY_x (s : State) (w : Width) (v : Word) : (s.putY w v).x = s.x := rfl
@[simp] theorem State.putY_y (s : State) (w : Width) (v : Word) : (s.putY w v).y = trunc w v := rfl
@[simp] theorem State.putY_s (s : State) (w : Width) (v : Word) : (s.putY w v).s = s.s := rfl
@[simp] theorem State.putY_d (s : State) (w : Width) (v : Word) : (s.putY w v).d = s.d := rfl
@[simp] theorem State.putY_dbr (s : State) (w : Width) (v : Word) : (s.putY w v).dbr = s.dbr := rfl
@[simp] theorem State.putY_pbr (s : State) (w : Width) (v : Word) : (s.putY w v).pbr = s.pbr := rfl
@[simp] theorem State.putY_pc (s : State) (w : Width) (v : Word) : (s.putY w v).pc = s.pc := rfl
@[simp] theorem State.putY_p (s : State) (w : Width) (v : Word) : (s.putY w v).p = s.p := rfl
@[simp] theorem State.putY_e (s : State) (w : Width) (v : Word) : (s.putY w v).e = s.e := rfl
@[simp] theorem State.putY_mem (s : State) (w : Width) (v : Word) : (s.putY w v).mem = s.mem := rfl
@[simp] theorem State.putY_cfg (s : State) (w : Width) (v : Word) : (s.putY w v).cfg = s.cfg := rfl

/-! ### `State.advance` -/

@[simp] theorem State.advance_a (s : State) (n : Nat) : (s.advance n).a = s.a := rfl
@[simp] theorem State.advance_b (s : State) (n : Nat) : (s.advance n).b = s.b := rfl
@[simp] theorem State.advance_x (s : State) (n : Nat) : (s.advance n).x = s.x := rfl
@[simp] theorem State.advance_y (s : State) (n : Nat) : (s.advance n).y = s.y := rfl
@[simp] theorem State.advance_s (s : State) (n : Nat) : (s.advance n).s = s.s := rfl
@[simp] theorem State.advance_d (s : State) (n : Nat) : (s.advance n).d = s.d := rfl
@[simp] theorem State.advance_dbr (s : State) (n : Nat) : (s.advance n).dbr = s.dbr := rfl
@[simp] theorem State.advance_pbr (s : State) (n : Nat) : (s.advance n).pbr = s.pbr := rfl
@[simp] theorem State.advance_pc (s : State) (n : Nat) : (s.advance n).pc = s.pc + BitVec.ofNat 16 n := rfl
@[simp] theorem State.advance_p (s : State) (n : Nat) : (s.advance n).p = s.p := rfl
@[simp] theorem State.advance_e (s : State) (n : Nat) : (s.advance n).e = s.e := rfl
@[simp] theorem State.advance_mem (s : State) (n : Nat) : (s.advance n).mem = s.mem := rfl
@[simp] theorem State.advance_cfg (s : State) (n : Nat) : (s.advance n).cfg = s.cfg := rfl

/-! ### `State.putA` -/

@[simp] theorem State.putA_x (s : State) (w : Width) (v : Word) : (s.putA w v).x = s.x := by
  cases w <;> rfl
@[simp] theorem State.putA_y (s : State) (w : Width) (v : Word) : (s.putA w v).y = s.y := by
  cases w <;> rfl
@[simp] theorem State.putA_s (s : State) (w : Width) (v : Word) : (s.putA w v).s = s.s := by
  cases w <;> rfl
@[simp] theorem State.putA_d (s : State) (w : Width) (v : Word) : (s.putA w v).d = s.d := by
  cases w <;> rfl
@[simp] theorem State.putA_dbr (s : State) (w : Width) (v : Word) : (s.putA w v).dbr = s.dbr := by
  cases w <;> rfl
@[simp] theorem State.putA_pbr (s : State) (w : Width) (v : Word) : (s.putA w v).pbr = s.pbr := by
  cases w <;> rfl
@[simp] theorem State.putA_pc (s : State) (w : Width) (v : Word) : (s.putA w v).pc = s.pc := by
  cases w <;> rfl
@[simp] theorem State.putA_p (s : State) (w : Width) (v : Word) : (s.putA w v).p = s.p := by
  cases w <;> rfl
@[simp] theorem State.putA_e (s : State) (w : Width) (v : Word) : (s.putA w v).e = s.e := by
  cases w <;> rfl
@[simp] theorem State.putA_mem (s : State) (w : Width) (v : Word) : (s.putA w v).mem = s.mem := by
  cases w <;> rfl
@[simp] theorem State.putA_cfg (s : State) (w : Width) (v : Word) : (s.putA w v).cfg = s.cfg := by
  cases w <;> rfl
@[simp] theorem State.putA_a (s : State) (w : Width) (v : Word) : (s.putA w v).a = loByte v := by
  cases w <;> rfl
@[simp] theorem State.putA_b_w8 (s : State) (v : Word) : (s.putA .w8 v).b = s.b := rfl
@[simp] theorem State.putA_b_w16 (s : State) (v : Word) : (s.putA .w16 v).b = hiByte v := rfl

/-! ### What one bit of `P` becomes -/

theorem writeBit_getLsbD (v : Byte) (k : Nat) (f : Bool) (j : Nat) (hk : k < 8) :
    (writeBit v k f).getLsbD j = if j = k then f else v.getLsbD j := by
  unfold writeBit
  rcases Nat.lt_or_ge j 8 with hj | hj
  · cases f <;> interval_cases j <;> interval_cases k <;> simp
  · have h : j ≠ k := by omega
    cases f <;> simp [BitVec.getLsbD_of_ge _ _ hj, h]

/-- `setNZ` bit by bit (R14). -/
theorem setNZ_getLsbD (w : Width) (v : Word) (p : Byte) (j : Nat) :
    (setNZ w v p).getLsbD j = if j = 1 then zeroAt w v else if j = 7 then msbAt w v else p.getLsbD j := by
  unfold setNZ
  rw [writeBit_getLsbD _ _ _ _ (by decide), writeBit_getLsbD _ _ _ _ (by decide)]
  rfl

@[simp] theorem State.putNZ_flagM (s : State) (w : Width) (v : Word) : (s.putNZ w v).flagM = s.flagM := by
  simp only [State.flagM, State.eFlag, State.is65816, State.putNZ_p, State.putNZ_cfg, State.putNZ_e, setNZ_getLsbD]
  rfl

@[simp] theorem State.putNZ_flagX (s : State) (w : Width) (v : Word) : (s.putNZ w v).flagX = s.flagX := by
  simp only [State.flagX, State.eFlag, State.is65816, State.putNZ_p, State.putNZ_cfg, State.putNZ_e, setNZ_getLsbD]
  rfl

/-! ### The mode and the widths look at few fields -/

theorem State.is65816_congr (s t : State) (hc : t.cfg = s.cfg) : t.is65816 = s.is65816 := by
  unfold State.is65816; rw [hc]

theorem State.eFlag_congr (s t : State) (hc : t.cfg = s.cfg) (he : t.e = s.e) : t.eFlag = s.eFlag := by
  unfold State.eFlag; rw [State.is65816_congr s t hc, he]

theorem State.wA_congr (s t : State) (hc : t.cfg = s.cfg) (he : t.e = s.e)
    (h5 : t.p.getLsbD bitM = s.p.getLsbD bitM) : t.wA = s.wA := by
  unfold State.wA State.flagM; rw [State.eFlag_congr s t hc he, h5]

theorem State.wX_congr (s t : State) (hc : t.cfg = s.cfg) (he : t.e = s.e)
    (h4 : t.p.getLsbD bitX = s.p.getLsbD bitX) : t.wX = s.wX := by
  unfold State.wX State.flagX; rw [State.eFlag_congr s t hc he, h4]

/-- The decoding context depends on the configuration, `e` and bits 5 and 4 of `P` only (R108). -/
theorem State.ctx_congr (s t : State) (hc : t.cfg = s.cfg) (he : t.e = s.e)
    (h5 : t.p.getLsbD bitM = s.p.getLsbD bitM) (h4 : t.p.getLsbD bitX = s.p.getLsbD bitX) : t.ctx = s.ctx := by
  unfold State.ctx State.wI
  rw [State.wA_congr s t hc he h5, State.wX_congr s t hc he h4, hc]

/-- On the 8-bit processors the accumulator is 8 bits wide (R44). -/
theorem State.wA_8bit (s : State) (h : s.is65816 = false) : s.wA = .w8 := by
  simp [State.wA, State.flagM, State.eFlag, h]

/-- On the 8-bit processors the index registers are 8 bits wide (R45). -/
theorem State.wX_8bit (s : State) (h : s.is65816 = false) : s.wX = .w8 := by
  simp [State.wX, State.flagX, State.eFlag, h]

/-- On the 8-bit processors index data are 8 bits wide under either reading (R45). -/
theorem State.wI_8bit (s : State) (h : s.is65816 = false) : s.wI = .w8 := by
  unfold State.wI
  split
  · exact State.wX_8bit s h
  · exact State.wA_8bit s h

end Sys2Proof.Machine
end

