-- ==== Sys2Proof/Laws/Ops.lean ====
section
/-!
SUPPORT. For each shared operation, once, everything it can do: proofs cite these lemmas and do not unfold the
operation.
-/

namespace Sys2Proof.Machine

/-! ### Sequencing -/

theorem bind_ok_iff {α β : Type} (x : Except Refusal α) (f : α → Except Refusal β) (b : β) :
    (x >>= f) = .ok b ↔ ∃ a, x = .ok a ∧ f a = .ok b := by
  cases x <;> simp [bind, Except.bind]

theorem bind_error_iff {α β : Type} (x : Except Refusal α) (f : α → Except Refusal β) (e : Refusal) :
    (x >>= f) = .error e ↔ x = .error e ∨ ∃ a, x = .ok a ∧ f a = .error e := by
  cases x <;> simp [bind, Except.bind]

@[simp] theorem bind_ok {α β : Type} (a : α) (f : α → Except Refusal β) :
    ((.ok a : Except Refusal α) >>= f) = f a := rfl

@[simp] theorem bind_error {α β : Type} (e : Refusal) (f : α → Except Refusal β) :
    ((.error e : Except Refusal α) >>= f) = .error e := rfl

/-! ### Outcomes -/

theorem finish_next_iff (x : Except Refusal State) (t : State) : finish x = .next t ↔ x = .ok t := by
  cases x <;> simp [finish]

theorem finish_refused_iff (x : Except Refusal State) (r : Refusal) : finish x = .refused r ↔ x = .error r := by
  cases x <;> simp [finish]

theorem finish_not_fault (x : Except Refusal State) (f : Fault) : finish x ≠ .fault f := by
  cases x <;> simp [finish]

theorem requireOn_ok_iff (av : Avail) (b0 : Byte) (s : State) (k : Except Refusal State) (t : State) :
    requireOn av b0 s k = .ok t ↔ av.allows s.cfg.variant = true ∧ k = .ok t := by
  unfold requireOn
  split <;> simp_all

theorem requireOn_error_iff (av : Avail) (b0 : Byte) (s : State) (k : Except Refusal State) (r : Refusal) :
    requireOn av b0 s k = .error r ↔
      (av.allows s.cfg.variant = false ∧ r = .opcodeNotAvailable b0 s.cfg.variant) ∨
      (av.allows s.cfg.variant = true ∧ k = .error r) := by
  unfold requireOn
  split <;> simp_all [eq_comm (a := r)]

/-! ### Addresses as numbers (R70, R130) -/

theorem word_toNat (hi lo : Byte) : (word hi lo).toNat = hi.toNat * 256 + lo.toNat := by
  simp only [word, BitVec.toNat_append]
  rw [← Nat.shiftLeft_add_eq_or_of_lt lo.isLt, Nat.shiftLeft_eq]

theorem long_toNat (b hi lo : Byte) : (long b hi lo).toNat = b.toNat * 65536 + hi.toNat * 256 + lo.toNat := by
  have h := word_toNat hi lo
  simp only [word] at h
  simp only [long, BitVec.toNat_append b]
  rw [← Nat.shiftLeft_add_eq_or_of_lt (BitVec.isLt _), Nat.shiftLeft_eq, h]
  omega

theorem loByte_toNat (v : Word) : (loByte v).toNat = v.toNat % 256 := by
  simp [loByte]

theorem hiByte_toNat (v : Word) : (hiByte v).toNat = v.toNat / 256 := by
  have := v.isLt
  simp only [hiByte, BitVec.extractLsb'_toNat, Nat.shiftRight_eq_div_pow]
  omega

@[simp] theorem loByte_word (hi lo : Byte) : loByte (word hi lo) = lo := by
  apply BitVec.eq_of_toNat_eq
  rw [loByte_toNat, word_toNat]
  have := lo.isLt
  omega

@[simp] theorem hiByte_word (hi lo : Byte) : hiByte (word hi lo) = hi := by
  apply BitVec.eq_of_toNat_eq
  rw [hiByte_toNat, word_toNat]
  have := lo.isLt
  omega

@[simp] theorem word_hiByte_loByte (v : Word) : word (hiByte v) (loByte v) = v := by
  apply BitVec.eq_of_toNat_eq
  rw [word_toNat, hiByte_toNat, loByte_toNat]
  omega

theorem State.a24_toNat_65816 (s : State) (h : s.is65816 = true) (b : Byte) (o : Word) :
    (s.a24 b o).toNat = b.toNat * 65536 + o.toNat := by
  simp only [State.a24, h, if_true, BitVec.toNat_append]
  rw [← Nat.shiftLeft_add_eq_or_of_lt o.isLt, Nat.shiftLeft_eq]

theorem State.a24_toNat_8bit (s : State) (h : s.is65816 = false) (b : Byte) (o : Word) :
    (s.a24 b o).toNat = o.toNat := by
  have := o.isLt
  simp only [State.a24, h, Bool.false_eq_true, if_false, BitVec.toNat_setWidth]
  omega

theorem State.lin_toNat_65816 (s : State) (h : s.is65816 = true) (a : Addr) (k : Word) :
    (s.lin a k).toNat = (a.toNat + k.toNat) % 2 ^ 24 := by
  have := k.isLt
  simp only [State.lin, h, if_true, BitVec.toNat_add, BitVec.toNat_setWidth]
  omega

theorem State.lin_toNat_8bit (s : State) (h : s.is65816 = false) (a : Addr) (k : Word) :
    (s.lin a k).toNat = (a.toNat + k.toNat) % 2 ^ 16 := by
  have := k.isLt
  simp only [State.lin, h, Bool.false_eq_true, if_false, BitVec.toNat_add, BitVec.toNat_setWidth]
  omega

/-! ### One byte of memory -/

theorem readByte_ok_iff (s : State) (a : Addr) (v : Byte) :
    readByte s a = .ok v ↔ s.readable a = true ∧ v = s.byteAt a := by
  unfold readByte
  split <;> simp_all [eq_comm (a := v)]

theorem readByte_error_iff (s : State) (a : Addr) (r : Refusal) :
    readByte s a = .error r ↔ s.readable a = false ∧ r = .notPlainMemory a := by
  unfold readByte
  split <;> simp_all [eq_comm (a := r)]

theorem writeByte_ok_iff (s : State) (a : Addr) (v : Byte) (t : State) :
    writeByte s a v = .ok t ↔ s.writable a = true ∧ t = { s with mem := s.mem.write a.toNat v } := by
  unfold writeByte
  split <;> simp_all [eq_comm (a := t)]

theorem writeByte_error_iff (s : State) (a : Addr) (v : Byte) (r : Refusal) :
    writeByte s a v = .error r ↔ s.writable a = false ∧ r = .notPlainMemory a := by
  unfold writeByte
  split <;> simp_all [eq_comm (a := r)]

/-- The byte at an address after a write of one byte. -/
theorem State.byteAt_write (s : State) (a b : Addr) (v : Byte) :
    State.byteAt { s with mem := s.mem.write a.toNat v } b = if a = b then v else s.byteAt b := by
  simp only [State.byteAt, Memory.read_write]
  by_cases h : a = b
  · simp [h]
  · have : a.toNat ≠ b.toNat := fun h' => h (BitVec.eq_of_toNat_eq h')
    simp [h, this]

@[simp] theorem State.byteAt_advance (s : State) (n : Nat) (a : Addr) : (s.advance n).byteAt a = s.byteAt a := rfl
@[simp] theorem State.byteAt_putNZ (s : State) (w : Width) (v : Word) (a : Addr) :
    (s.putNZ w v).byteAt a = s.byteAt a := rfl
@[simp] theorem State.byteAt_putX (s : State) (w : Width) (v : Word) (a : Addr) :
    (s.putX w v).byteAt a = s.byteAt a := rfl
@[simp] theorem State.byteAt_putY (s : State) (w : Width) (v : Word) (a : Addr) :
    (s.putY w v).byteAt a = s.byteAt a := rfl
@[simp] theorem State.byteAt_putC (s : State) (v : Word) (a : Addr) : (s.putC v).byteAt a = s.byteAt a := rfl
@[simp] theorem State.byteAt_putA (s : State) (w : Width) (v : Word) (a : Addr) :
    (s.putA w v).byteAt a = s.byteAt a := by
  simp [State.byteAt]

/-! ### Data of width 8 or 16 -/

theorem readDatum_ok_iff (s : State) (w : Width) (m : EA) (v : Word) :
    readDatum s w m = .ok v ↔
      match w with
      | .w8 => s.readable m.ea = true ∧ v = word 0 (s.byteAt m.ea)
      | .w16 => s.readable m.ea = true ∧ s.readable m.ea1 = true ∧ v = word (s.byteAt m.ea1) (s.byteAt m.ea) := by
  cases w <;> simp only [readDatum, bind_ok_iff, readByte_ok_iff] <;> constructor
  · rintro ⟨b, ⟨h, rfl⟩, h'⟩
    cases h'
    exact ⟨h, rfl⟩
  · rintro ⟨h, rfl⟩
    exact ⟨_, ⟨h, rfl⟩, rfl⟩
  · rintro ⟨b, ⟨h, rfl⟩, c, ⟨h2, rfl⟩, h'⟩
    cases h'
    exact ⟨h, h2, rfl⟩
  · rintro ⟨h, h2, rfl⟩
    exact ⟨_, ⟨h, rfl⟩, _, ⟨h2, rfl⟩, rfl⟩

theorem readDatum_error_iff (s : State) (w : Width) (m : EA) (r : Refusal) :
    readDatum s w m = .error r ↔
      (s.readable m.ea = false ∧ r = .notPlainMemory m.ea) ∨
      (w = .w16 ∧ s.readable m.ea = true ∧ s.readable m.ea1 = false ∧ r = .notPlainMemory m.ea1) := by
  cases w <;> simp [readDatum, bind_error_iff, readByte_error_iff, readByte_ok_iff]

theorem writeDatum_ok_iff (s : State) (w : Width) (m : EA) (v : Word) (t : State) :
    writeDatum s w m v = .ok t ↔
      match w with
      | .w8 => s.writable m.ea = true ∧ t = { s with mem := s.mem.write m.ea.toNat (loByte v) }
      | .w16 => s.writable m.ea = true ∧ s.writable m.ea1 = true ∧
          t = { s with mem := (s.mem.write m.ea.toNat (loByte v)).write m.ea1.toNat (hiByte v) } := by
  cases w <;> simp only [writeDatum, bind_ok_iff, writeByte_ok_iff]
  constructor
  · rintro ⟨u, ⟨h, rfl⟩, h2, rfl⟩
    exact ⟨h, h2, rfl⟩
  · rintro ⟨h, h2, rfl⟩
    exact ⟨_, ⟨h, rfl⟩, h2, rfl⟩

theorem writeDatum_error_iff (s : State) (w : Width) (m : EA) (v : Word) (r : Refusal) :
    writeDatum s w m v = .error r ↔
      (s.writable m.ea = false ∧ r = .notPlainMemory m.ea) ∨
      (w = .w16 ∧ s.writable m.ea = true ∧ s.writable m.ea1 = false ∧ r = .notPlainMemory m.ea1) := by
  cases w
  · simp [writeDatum, writeByte_error_iff]
  · simp only [writeDatum, bind_error_iff, writeByte_error_iff, writeByte_ok_iff]
    constructor
    · rintro (h | ⟨u, ⟨h, rfl⟩, h2, h3⟩)
      · exact .inl h
      · exact .inr ⟨trivial, h, h2, h3⟩
    · rintro (h | ⟨-, h, h2, h3⟩)
      · exact .inl h
      · exact .inr ⟨_, ⟨h, rfl⟩, h2, h3⟩

/-! ### The load and store shapes -/

theorem loadA_ok_iff (len : Nat) (mode : Except Refusal EA) (s t : State) :
    loadA len mode s = .ok t ↔ ∃ m v, mode = .ok m ∧ readDatum s s.wA m = .ok v ∧
      t = ((s.putA s.wA v).putNZ s.wA v).advance len := by
  simp only [loadA, bind_ok_iff, Except.ok.injEq, eq_comm (a := t)]
  constructor
  · rintro ⟨m, h, v, h2, h3⟩
    exact ⟨m, v, h, h2, h3⟩
  · rintro ⟨m, v, h, h2, h3⟩
    exact ⟨m, h, v, h2, h3⟩

theorem loadX_ok_iff (len : Nat) (mode : Except Refusal EA) (s t : State) :
    loadX len mode s = .ok t ↔ ∃ m v, mode = .ok m ∧ readDatum s s.wI m = .ok v ∧
      t = ((s.putX s.wI v).putNZ s.wI v).advance len := by
  simp only [loadX, bind_ok_iff, Except.ok.injEq, eq_comm (a := t)]
  constructor
  · rintro ⟨m, h, v, h2, h3⟩
    exact ⟨m, v, h, h2, h3⟩
  · rintro ⟨m, v, h, h2, h3⟩
    exact ⟨m, h, v, h2, h3⟩

theorem loadY_ok_iff (len : Nat) (mode : Except Refusal EA) (s t : State) :
    loadY len mode s = .ok t ↔ ∃ m v, mode = .ok m ∧ readDatum s s.wI m = .ok v ∧
      t = ((s.putY s.wI v).putNZ s.wI v).advance len := by
  simp only [loadY, bind_ok_iff, Except.ok.injEq, eq_comm (a := t)]
  constructor
  · rintro ⟨m, h, v, h2, h3⟩
    exact ⟨m, v, h, h2, h3⟩
  · rintro ⟨m, v, h, h2, h3⟩
    exact ⟨m, h, v, h2, h3⟩

theorem loadA_error_iff (len : Nat) (mode : Except Refusal EA) (s : State) (r : Refusal) :
    loadA len mode s = .error r ↔ mode = .error r ∨ ∃ m, mode = .ok m ∧ readDatum s s.wA m = .error r := by
  simp [loadA, bind_error_iff]

theorem loadX_error_iff (len : Nat) (mode : Except Refusal EA) (s : State) (r : Refusal) :
    loadX len mode s = .error r ↔ mode = .error r ∨ ∃ m, mode = .ok m ∧ readDatum s s.wI m = .error r := by
  simp [loadX, bind_error_iff]

theorem loadY_error_iff (len : Nat) (mode : Except Refusal EA) (s : State) (r : Refusal) :
    loadY len mode s = .error r ↔ mode = .error r ∨ ∃ m, mode = .ok m ∧ readDatum s s.wI m = .error r := by
  simp [loadY, bind_error_iff]

theorem store_ok_iff (len : Nat) (w : Width) (v : Word) (mode : Except Refusal EA) (s t : State) :
    store len w v mode s = .ok t ↔
      ∃ m u, mode = .ok m ∧ writeDatum s w m v = .ok u ∧ t = u.advance len := by
  simp only [store, bind_ok_iff, Except.ok.injEq, eq_comm (a := t)]
  constructor
  · rintro ⟨m, h, u, h2, h3⟩
    exact ⟨m, u, h, h2, h3⟩
  · rintro ⟨m, u, h, h2, h3⟩
    exact ⟨m, h, u, h2, h3⟩

theorem store_error_iff (len : Nat) (w : Width) (v : Word) (mode : Except Refusal EA) (s : State) (r : Refusal) :
    store len w v mode s = .error r ↔ mode = .error r ∨ ∃ m, mode = .ok m ∧ writeDatum s w m v = .error r := by
  simp [store, bind_error_iff]

/-! ### The modes -/

theorem ptr16_ok_iff (s : State) (a0 a1 : Addr) (p : Word) :
    ptr16 s a0 a1 = .ok p ↔ s.readable a0 = true ∧ s.readable a1 = true ∧ p = word (s.byteAt a1) (s.byteAt a0) := by
  simp only [ptr16, bind_ok_iff, readByte_ok_iff, Except.ok.injEq, eq_comm (a := p)]
  constructor
  · rintro ⟨lo, ⟨h, rfl⟩, hi, ⟨h2, rfl⟩, h3⟩
    exact ⟨h, h2, h3⟩
  · rintro ⟨h, h2, h3⟩
    exact ⟨_, ⟨h, rfl⟩, _, ⟨h2, rfl⟩, h3⟩

theorem ptr16_error_iff (s : State) (a0 a1 : Addr) (r : Refusal) :
    ptr16 s a0 a1 = .error r ↔
      (s.readable a0 = false ∧ r = .notPlainMemory a0) ∨
      (s.readable a0 = true ∧ s.readable a1 = false ∧ r = .notPlainMemory a1) := by
  simp [ptr16, bind_error_iff, readByte_ok_iff, readByte_error_iff]

theorem ptr24_ok_iff (s : State) (a0 a1 a2 p : Addr) :
    ptr24 s a0 a1 a2 = .ok p ↔ s.readable a0 = true ∧ s.readable a1 = true ∧ s.readable a2 = true ∧
      p = long (s.byteAt a2) (s.byteAt a1) (s.byteAt a0) := by
  simp only [ptr24, bind_ok_iff, readByte_ok_iff, Except.ok.injEq, eq_comm (a := p)]
  constructor
  · rintro ⟨lo, ⟨h, rfl⟩, hi, ⟨h2, rfl⟩, b, ⟨h3, rfl⟩, h4⟩
    exact ⟨h, h2, h3, h4⟩
  · rintro ⟨h, h2, h3, h4⟩
    exact ⟨_, ⟨h, rfl⟩, _, ⟨h2, rfl⟩, _, ⟨h3, rfl⟩, h4⟩

theorem ptr24_error_iff (s : State) (a0 a1 a2 : Addr) (r : Refusal) :
    ptr24 s a0 a1 a2 = .error r ↔
      (s.readable a0 = false ∧ r = .notPlainMemory a0) ∨
      (s.readable a0 = true ∧ s.readable a1 = false ∧ r = .notPlainMemory a1) ∨
      (s.readable a0 = true ∧ s.readable a1 = true ∧ s.readable a2 = false ∧ r = .notPlainMemory a2) := by
  simp only [ptr24, bind_error_iff, readByte_ok_iff, readByte_error_iff]
  constructor
  · rintro (h | ⟨lo, ⟨h, -⟩, (h2 | ⟨hi, ⟨h2, -⟩, (h3 | ⟨b, -, h4⟩)⟩)⟩)
    · exact .inl h
    · exact .inr (.inl ⟨h, h2⟩)
    · exact .inr (.inr ⟨h, h2, h3⟩)
    · cases h4
  · rintro (h | ⟨h, h2⟩ | ⟨h, h2, h3⟩)
    · exact .inl h
    · exact .inr ⟨_, ⟨h, rfl⟩, .inl h2⟩
    · exact .inr ⟨_, ⟨h, rfl⟩, .inr ⟨_, ⟨h2, rfl⟩, .inl h3⟩⟩

theorem guard16_ok_iff (s : State) (off : Word) (k : Except Refusal EA) (m : EA) :
    guard16 s off k = .ok m ↔ (s.cornersRefused && s.straddles16 off) = false ∧ k = .ok m := by
  unfold guard16
  split <;> simp_all

theorem guard24_ok_iff (s : State) (off : Word) (k : Except Refusal EA) (m : EA) :
    guard24 s off k = .ok m ↔ (s.cornersRefused && s.straddles24 off) = false ∧ k = .ok m := by
  unfold guard24
  split <;> simp_all

theorem guardSr_ok_iff (s : State) (sr : Byte) (n : Nat) (k : Except Refusal EA) (m : EA) :
    guardSr s sr n k = .ok m ↔ (s.cornersRefused && s.leavesPage1 sr n) = false ∧ k = .ok m := by
  unfold guardSr
  split <;> simp_all

theorem guard16_error_iff (s : State) (off : Word) (k : Except Refusal EA) (r : Refusal) :
    guard16 s off k = .error r ↔
      ((s.cornersRefused && s.straddles16 off) = true ∧ r = .emuPointerWrap) ∨
      ((s.cornersRefused && s.straddles16 off) = false ∧ k = .error r) := by
  unfold guard16
  split <;> simp_all [eq_comm (a := r)]

theorem guard24_error_iff (s : State) (off : Word) (k : Except Refusal EA) (r : Refusal) :
    guard24 s off k = .error r ↔
      ((s.cornersRefused && s.straddles24 off) = true ∧ r = .emuPointerWrap) ∨
      ((s.cornersRefused && s.straddles24 off) = false ∧ k = .error r) := by
  unfold guard24
  split <;> simp_all [eq_comm (a := r)]

theorem guardSr_error_iff (s : State) (sr : Byte) (n : Nat) (k : Except Refusal EA) (r : Refusal) :
    guardSr s sr n k = .error r ↔
      ((s.cornersRefused && s.leavesPage1 sr n) = true ∧ r = .emuStackRelative) ∨
      ((s.cornersRefused && s.leavesPage1 sr n) = false ∧ k = .error r) := by
  unfold guardSr
  split
  · rename_i h
    rw [h]
    simp [eq_comm (a := r)]
  · rename_i h
    rw [Bool.not_eq_true] at h
    rw [h]
    simp

/-! ### Fetching -/

theorem fetchBytes_ok_iff (s : State) (k n : Nat) (bs : List Byte) :
    fetchBytes s k n = .ok bs ↔
      (∀ j < n, s.readable (s.fetchAddr (k + j)) = true) ∧
      bs = (List.range n).map fun j => s.byteAt (s.fetchAddr (k + j)) := by
  induction n generalizing k bs with
  | zero =>
    simp only [fetchBytes, Except.ok.injEq]
    constructor
    · rintro rfl
      simp
    · rintro ⟨-, rfl⟩
      rfl
  | succ n ih =>
    simp only [fetchBytes, bind_ok_iff, readByte_ok_iff, ih, Except.ok.injEq, List.range_succ_eq_map, List.map_cons,
      List.map_map]
    have e : ∀ j, k + 1 + j = k + (j + 1) := fun j => by omega
    constructor
    · rintro ⟨b, ⟨h, rfl⟩, bs', ⟨h2, rfl⟩, rfl⟩
      refine ⟨fun j hj => ?_, ?_⟩
      · rcases j with _ | j
        · exact h
        · rw [← e]; exact h2 j (by omega)
      · simp [Function.comp_def, e]
    · rintro ⟨h, rfl⟩
      refine ⟨_, ⟨h 0 (by omega), rfl⟩, _, ⟨fun j hj => ?_, rfl⟩, ?_⟩
      · rw [e]; exact h (j + 1) (by omega)
      · simp [Function.comp_def, e]

theorem step_of_fetch (s : State) (i : Instr) (h : fetchInstr s = .ok i) : step s = exec i s := by
  simp [step, h]

theorem step_of_fetch_error (s : State) (r : Refusal) (h : fetchInstr s = .error r) : step s = .refused r := by
  simp [step, h]

end Sys2Proof.Machine
end

