-- ==== Sys2Proof/Laws/Exec.lean ====
section
/-!
SUPPORT. Execution, once for all instructions: the availability check (R111) around a body that is one of the shapes of
Machine/Ops.lean or a transfer. Whole-machine proofs split on `body` and cite Laws/Ops.lean.
-/

namespace Sys2Proof.Machine

/-- What an instruction does where it is available. -/
def body (i : Instr) (s : State) : Except Refusal State :=
  match i with
  | .ldaImm o => .ok (loadImmA o s)
  | .ldaAbs o => loadA 3 (.ok (eaAbs o s)) s
  | .ldaLong o => loadA 4 (.ok (eaLong o s)) s
  | .ldaDp o => loadA 2 (.ok (eaDp o s)) s
  | .ldaDpInd o => loadA 2 (eaDpInd o s) s
  | .ldaDpIndLong o => loadA 2 (eaDpIndLong o s) s
  | .ldaAbsX o => loadA 3 (.ok (eaAbsX o s)) s
  | .ldaLongX o => loadA 4 (.ok (eaLongX o s)) s
  | .ldaAbsY o => loadA 3 (.ok (eaAbsY o s)) s
  | .ldaDpX o => loadA 2 (.ok (eaDpX o s)) s
  | .ldaDpXInd o => loadA 2 (eaDpXInd o s) s
  | .ldaDpIndY o => loadA 2 (eaDpIndY o s) s
  | .ldaDpIndLongY o => loadA 2 (eaDpIndLongY o s) s
  | .ldaSr o => loadA 2 (eaSr o s) s
  | .ldaSrIndY o => loadA 2 (eaSrIndY o s) s
  | .ldxImm o => .ok (loadImmX o s)
  | .ldxAbs o => loadX 3 (.ok (eaAbs o s)) s
  | .ldxDp o => loadX 2 (.ok (eaDp o s)) s
  | .ldxAbsY o => loadX 3 (.ok (eaLdxAbs o s)) s
  | .ldxDpY o => loadX 2 (.ok (eaLdxDp o s)) s
  | .ldyImm o => .ok (loadImmY o s)
  | .ldyAbs o => loadY 3 (.ok (eaAbs o s)) s
  | .ldyDp o => loadY 2 (.ok (eaDp o s)) s
  | .ldyAbsX o => loadY 3 (.ok (eaAbsX o s)) s
  | .ldyDpX o => loadY 2 (.ok (eaDpX o s)) s
  | .staAbs o => store 3 s.wA s.c (.ok (eaAbs o s)) s
  | .staLong o => store 4 s.wA s.c (.ok (eaLong o s)) s
  | .staDp o => store 2 s.wA s.c (.ok (eaDp o s)) s
  | .staDpInd o => store 2 s.wA s.c (eaDpInd o s) s
  | .staDpIndLong o => store 2 s.wA s.c (eaDpIndLong o s) s
  | .staAbsX o => store 3 s.wA s.c (.ok (eaAbsX o s)) s
  | .staLongX o => store 4 s.wA s.c (.ok (eaLongX o s)) s
  | .staAbsY o => store 3 s.wA s.c (.ok (eaAbsY o s)) s
  | .staDpX o => store 2 s.wA s.c (.ok (eaDpX o s)) s
  | .staDpXInd o => store 2 s.wA s.c (eaDpXInd o s) s
  | .staDpIndY o => store 2 s.wA s.c (eaDpIndY o s) s
  | .staDpIndLongY o => store 2 s.wA s.c (eaDpIndLongY o s) s
  | .staSr o => store 2 s.wA s.c (eaSr o s) s
  | .staSrIndY o => store 2 s.wA s.c (eaSrIndY o s) s
  | .stxAbs o => store 3 s.wI s.x (.ok (eaAbs o s)) s
  | .stxDp o => store 2 s.wI s.x (.ok (eaDp o s)) s
  | .stxDpY o => store 2 s.wI s.x (.ok (eaDpY o s)) s
  | .styAbs o => store 3 s.wI s.y (.ok (eaAbs o s)) s
  | .styDp o => store 2 s.wI s.y (.ok (eaDp o s)) s
  | .styDpX o => store 2 s.wI s.y (.ok (eaDpX o s)) s
  | .stzAbs o => store 3 s.wA 0 (.ok (eaAbs o s)) s
  | .stzDp o => store 2 s.wA 0 (.ok (eaDp o s)) s
  | .stzAbsX o => store 3 s.wA 0 (.ok (eaAbsX o s)) s
  | .stzDpX o => store 2 s.wA 0 (.ok (eaDpX o s)) s
  | .tax => .ok (((s.putX s.wX s.c).putNZ s.wX s.c).advance 1)
  | .tay => .ok (((s.putY s.wX s.c).putNZ s.wX s.c).advance 1)
  | .tcd => .ok ((({ s with d := s.c } : State).putNZ .w16 s.c).advance 1)
  | .tcs => .ok (({ s with s := if s.eFlag && s.cfg.emuStackPage then word 0x01 s.a else s.c } : State).advance 1)
  | .tdc => .ok (((s.putC s.dReg).putNZ .w16 s.dReg).advance 1)
  | .tsc => .ok (((s.putC s.s).putNZ .w16 s.s).advance 1)
  | .tsx => .ok (((s.putX s.wX s.s).putNZ s.wX s.s).advance 1)
  | .txa => .ok (((s.putA s.wA s.x).putNZ s.wA s.x).advance 1)
  | .txs => .ok (({ s with s := txsValue s } : State).advance 1)
  | .txy => .ok ((({ s with y := s.x } : State).putNZ s.wX s.x).advance 1)
  | .tya => .ok (((s.putA s.wA s.y).putNZ s.wA s.y).advance 1)
  | .tyx => .ok ((({ s with x := s.y } : State).putNZ s.wX s.y).advance 1)
  | .xba => .ok ((({ s with a := s.b, b := s.a } : State).putNZ .w8 (word 0 s.b)).advance 1)

/-- Execution is the body behind the availability check. -/
theorem exec_eq (i : Instr) (s : State) : exec i s = finish (requireOn i.avail i.opcode s (body i s)) := by
  cases i <;> rfl

theorem exec_next_iff (i : Instr) (s t : State) :
    exec i s = .next t ↔ i.avail.allows s.cfg.variant = true ∧ body i s = .ok t := by
  rw [exec_eq, finish_next_iff, requireOn_ok_iff]

theorem exec_refused_iff (i : Instr) (s : State) (r : Refusal) :
    exec i s = .refused r ↔
      (i.avail.allows s.cfg.variant = false ∧ r = .opcodeNotAvailable i.opcode s.cfg.variant) ∨
      (i.avail.allows s.cfg.variant = true ∧ body i s = .error r) := by
  rw [exec_eq, finish_refused_iff, requireOn_error_iff]

end Sys2Proof.Machine
end

