-- ==== Sys2Proof/Laws/PerInstr.lean ====
section
/-!
SUPPORT. The family `TableRow`, one lemma per constructor: an instruction's opcode byte has a row in the table, the
row has the instruction's availability (R111), and the encoding starts with that byte and is as long as the row's
format says (R101 to R105).
-/

namespace Sys2Proof.Laws.TableRow

/-- What the family says of an instruction. -/
def Statement (i : Instr) : Prop :=
  (rowOf i.opcode).map Row.avail = some i.avail ∧
  ∀ c : Ctx, (encode c i).head? = some i.opcode ∧
    (rowOf i.opcode).map (fun r => r.shape.length c) = some (encode c i).length

theorem ldaImm (const : Word) : Statement (.ldaImm const) := by
  refine ⟨rfl, fun c => ⟨rfl, ?_⟩⟩
  rcases c with ⟨v, wA, wI⟩
  cases wA <;> cases wI <;> rfl

theorem ldaAbs (addr : Word) : Statement (.ldaAbs addr) := ⟨rfl, fun _ => ⟨rfl, rfl⟩⟩

theorem ldaLong (long : Addr) : Statement (.ldaLong long) := ⟨rfl, fun _ => ⟨rfl, rfl⟩⟩

theorem ldaDp (dp : Byte) : Statement (.ldaDp dp) := ⟨rfl, fun _ => ⟨rfl, rfl⟩⟩

theorem ldaDpInd (dp : Byte) : Statement (.ldaDpInd dp) := ⟨rfl, fun _ => ⟨rfl, rfl⟩⟩

theorem ldaDpIndLong (dp : Byte) : Statement (.ldaDpIndLong dp) := ⟨rfl, fun _ => ⟨rfl, rfl⟩⟩

theorem ldaAbsX (addr : Word) : Statement (.ldaAbsX addr) := ⟨rfl, fun _ => ⟨rfl, rfl⟩⟩

theorem ldaLongX (long : Addr) : Statement (.ldaLongX long) := ⟨rfl, fun _ => ⟨rfl, rfl⟩⟩

theorem ldaAbsY (addr : Word) : Statement (.ldaAbsY addr) := ⟨rfl, fun _ => ⟨rfl, rfl⟩⟩

theorem ldaDpX (dp : Byte) : Statement (.ldaDpX dp) := ⟨rfl, fun _ => ⟨rfl, rfl⟩⟩

theorem ldaDpXInd (dp : Byte) : Statement (.ldaDpXInd dp) := ⟨rfl, fun _ => ⟨rfl, rfl⟩⟩

theorem ldaDpIndY (dp : Byte) : Statement (.ldaDpIndY dp) := ⟨rfl, fun _ => ⟨rfl, rfl⟩⟩

theorem ldaDpIndLongY (dp : Byte) : Statement (.ldaDpIndLongY dp) := ⟨rfl, fun _ => ⟨rfl, rfl⟩⟩

theorem ldaSr (sr : Byte) : Statement (.ldaSr sr) := ⟨rfl, fun _ => ⟨rfl, rfl⟩⟩

theorem ldaSrIndY (sr : Byte) : Statement (.ldaSrIndY sr) := ⟨rfl, fun _ => ⟨rfl, rfl⟩⟩

theorem ldxImm (const : Word) : Statement (.ldxImm const) := by
  refine ⟨rfl, fun c => ⟨rfl, ?_⟩⟩
  rcases c with ⟨v, wA, wI⟩
  cases wA <;> cases wI <;> rfl

theorem ldxAbs (addr : Word) : Statement (.ldxAbs addr) := ⟨rfl, fun _ => ⟨rfl, rfl⟩⟩

theorem ldxDp (dp : Byte) : Statement (.ldxDp dp) := ⟨rfl, fun _ => ⟨rfl, rfl⟩⟩

theorem ldxAbsY (addr : Word) : Statement (.ldxAbsY addr) := ⟨rfl, fun _ => ⟨rfl, rfl⟩⟩

theorem ldxDpY (dp : Byte) : Statement (.ldxDpY dp) := ⟨rfl, fun _ => ⟨rfl, rfl⟩⟩

theorem ldyImm (const : Word) : Statement (.ldyImm const) := by
  refine ⟨rfl, fun c => ⟨rfl, ?_⟩⟩
  rcases c with ⟨v, wA, wI⟩
  cases wA <;> cases wI <;> rfl

theorem ldyAbs (addr : Word) : Statement (.ldyAbs addr) := ⟨rfl, fun _ => ⟨rfl, rfl⟩⟩

theorem ldyDp (dp : Byte) : Statement (.ldyDp dp) := ⟨rfl, fun _ => ⟨rfl, rfl⟩⟩

theorem ldyAbsX (addr : Word) : Statement (.ldyAbsX addr) := ⟨rfl, fun _ => ⟨rfl, rfl⟩⟩

theorem ldyDpX (dp : Byte) : Statement (.ldyDpX dp) := ⟨rfl, fun _ => ⟨rfl, rfl⟩⟩

theorem staAbs (addr : Word) : Statement (.staAbs addr) := ⟨rfl, fun _ => ⟨rfl, rfl⟩⟩

theorem staLong (long : Addr) : Statement (.staLong long) := ⟨rfl, fun _ => ⟨rfl, rfl⟩⟩

theorem staDp (dp : Byte) : Statement (.staDp dp) := ⟨rfl, fun _ => ⟨rfl, rfl⟩⟩

theorem staDpInd (dp : Byte) : Statement (.staDpInd dp) := ⟨rfl, fun _ => ⟨rfl, rfl⟩⟩

theorem staDpIndLong (dp : Byte) : Statement (.staDpIndLong dp) := ⟨rfl, fun _ => ⟨rfl, rfl⟩⟩

theorem staAbsX (addr : Word) : Statement (.staAbsX addr) := ⟨rfl, fun _ => ⟨rfl, rfl⟩⟩

theorem staLongX (long : Addr) : Statement (.staLongX long) := ⟨rfl, fun _ => ⟨rfl, rfl⟩⟩

theorem staAbsY (addr : Word) : Statement (.staAbsY addr) := ⟨rfl, fun _ => ⟨rfl, rfl⟩⟩

theorem staDpX (dp : Byte) : Statement (.staDpX dp) := ⟨rfl, fun _ => ⟨rfl, rfl⟩⟩

theorem staDpXInd (dp : Byte) : Statement (.staDpXInd dp) := ⟨rfl, fun _ => ⟨rfl, rfl⟩⟩

theorem staDpIndY (dp : Byte) : Statement (.staDpIndY dp) := ⟨rfl, fun _ => ⟨rfl, rfl⟩⟩

theorem staDpIndLongY (dp : Byte) : Statement (.staDpIndLongY dp) := ⟨rfl, fun _ => ⟨rfl, rfl⟩⟩

theorem staSr (sr : Byte) : Statement (.staSr sr) := ⟨rfl, fun _ => ⟨rfl, rfl⟩⟩

theorem staSrIndY (sr : Byte) : Statement (.staSrIndY sr) := ⟨rfl, fun _ => ⟨rfl, rfl⟩⟩

theorem stxAbs (addr : Word) : Statement (.stxAbs addr) := ⟨rfl, fun _ => ⟨rfl, rfl⟩⟩

theorem stxDp (dp : Byte) : Statement (.stxDp dp) := ⟨rfl, fun _ => ⟨rfl, rfl⟩⟩

theorem stxDpY (dp : Byte) : Statement (.stxDpY dp) := ⟨rfl, fun _ => ⟨rfl, rfl⟩⟩

theorem styAbs (addr : Word) : Statement (.styAbs addr) := ⟨rfl, fun _ => ⟨rfl, rfl⟩⟩

theorem styDp (dp : Byte) : Statement (.styDp dp) := ⟨rfl, fun _ => ⟨rfl, rfl⟩⟩

theorem styDpX (dp : Byte) : Statement (.styDpX dp) := ⟨rfl, fun _ => ⟨rfl, rfl⟩⟩

theorem stzAbs (addr : Word) : Statement (.stzAbs addr) := ⟨rfl, fun _ => ⟨rfl, rfl⟩⟩

theorem stzDp (dp : Byte) : Statement (.stzDp dp) := ⟨rfl, fun _ => ⟨rfl, rfl⟩⟩

theorem stzAbsX (addr : Word) : Statement (.stzAbsX addr) := ⟨rfl, fun _ => ⟨rfl, rfl⟩⟩

theorem stzDpX (dp : Byte) : Statement (.stzDpX dp) := ⟨rfl, fun _ => ⟨rfl, rfl⟩⟩

theorem tax : Statement .tax := ⟨rfl, fun _ => ⟨rfl, rfl⟩⟩

theorem tay : Statement .tay := ⟨rfl, fun _ => ⟨rfl, rfl⟩⟩

theorem tcd : Statement .tcd := ⟨rfl, fun _ => ⟨rfl, rfl⟩⟩

theorem tcs : Statement .tcs := ⟨rfl, fun _ => ⟨rfl, rfl⟩⟩

theorem tdc : Statement .tdc := ⟨rfl, fun _ => ⟨rfl, rfl⟩⟩

theorem tsc : Statement .tsc := ⟨rfl, fun _ => ⟨rfl, rfl⟩⟩

theorem tsx : Statement .tsx := ⟨rfl, fun _ => ⟨rfl, rfl⟩⟩

theorem txa : Statement .txa := ⟨rfl, fun _ => ⟨rfl, rfl⟩⟩

theorem txs : Statement .txs := ⟨rfl, fun _ => ⟨rfl, rfl⟩⟩

theorem txy : Statement .txy := ⟨rfl, fun _ => ⟨rfl, rfl⟩⟩

theorem tya : Statement .tya := ⟨rfl, fun _ => ⟨rfl, rfl⟩⟩

theorem tyx : Statement .tyx := ⟨rfl, fun _ => ⟨rfl, rfl⟩⟩

theorem xba : Statement .xba := ⟨rfl, fun _ => ⟨rfl, rfl⟩⟩

end Sys2Proof.Laws.TableRow
end

