-- ==== Sys2Proof/Laws/Safety.lean ====
section
/-!
SUPPORT. The words of Sys2Proof/Safety.lean beside the machine: code at `PC` as the fetch sees it, the corners of R151
as numbers, a store's datum as `storeAt` gives it, and how a body can stop.
-/

namespace Sys2Proof.Machine

theorem State.fetchAddr_eq (s : State) (k : Nat) : s.fetchAddr k = s.codeAddr s.pc k := rfl

theorem State.codeAddr_congr {s t : State} (hv : t.cfg = s.cfg) (hp : t.pbr = s.pbr) (base : Word) (k : Nat) :
    t.codeAddr base k = s.codeAddr base k := by
  simp [State.codeAddr, State.a24, State.pbrReg, State.is65816, hv, hp]

theorem State.CodeAt.fetched {s : State} {bytes : List Byte} (h : s.CodeAt s.pc bytes) (k : Nat)
    (hk : k < bytes.length) : s.byteAt (s.fetchAddr k) = bytes[k] :=
  h k hk

/-! ### The corners of R151 -/

theorem State.cornersRefused_iff (s : State) :
    s.cornersRefused = true ↔ s.cfg.variant = .m65816 ∧ s.e = true ∧ s.cfg.emuDpCorners = .refuse := by
  simp [State.cornersRefused, State.is65816, and_assoc]

theorem State.straddles16_iff {s : State} (h : s.cfg.variant = .m65816) (off : Word) :
    s.straddles16 off = true ↔ (s.d.toNat + off.toNat) % 256 = 0xFF := by
  simp only [State.straddles16, State.dReg, State.is65816, h, beq_self_eq_true, if_true, decide_eq_true_eq, loByte_toNat,
    BitVec.toNat_add]
  omega

theorem State.straddles24_iff {s : State} (h : s.cfg.variant = .m65816) (off : Word) :
    s.straddles24 off = true ↔ 0xFE ≤ (s.d.toNat + off.toNat) % 256 := by
  simp only [State.straddles24, State.dReg, State.is65816, h, beq_self_eq_true, if_true, decide_eq_true_eq, loByte_toNat,
    BitVec.toNat_add]
  omega

theorem State.leavesPage1_iff (s : State) (sr : Byte) (n : Nat) :
    s.leavesPage1 sr n = true ↔ 0xFF < s.s.toNat % 256 + sr.toNat + (n - 1) := by
  simp only [State.leavesPage1, decide_eq_true_eq, loByte_toNat]

/-! ### Stores -/

/-- What `storeAt` gives is what the body stores with. -/
theorem body_of_storeAt {s : State} {i : Instr} {w : Width} {mode : Except Refusal EA}
    (h : storeAt s i = some (w, mode)) : ∃ len v, body i s = store len w v mode s := by
  cases i <;> simp only [storeAt, Option.some.injEq, Prod.mk.injEq, reduceCtorEq] at h
  all_goals
    obtain ⟨rfl, rfl⟩ := h
    exact ⟨_, _, rfl⟩

end Sys2Proof.Machine
end

