-- ==== Sys2Proof/Tests/Slice0.lean ====
section
/-!
SUPPORT. Tests and witnesses. Expected results come from the spec: the words from 95_test_vectors.md section 1.5, the
steps from the vectors of its sections 3 to 9 (a test's last name part is the vector's id; at most two per
instruction). Each `witness_` theorem meets all hypotheses of the obligation it names, every clause at a boundary.
-/

namespace Sys2Proof.Tests

open Sys2Proof Sys2Proof.Machine

/-! ### Helpers -/

/-- The default start state of 95_test_vectors.md section 2, with code at 0x0200 and bytes listed in memory. -/
def start (v : Variant) (e : Bool) (p : Byte) (code : List Byte) (m : Memory) : State where
  a := 0
  b := 0
  x := 0
  y := 0
  s := 0x01FF
  d := 0
  dbr := 0
  pbr := 0
  pc := 0x0200
  p := p
  e := e
  mem := code.zipIdx.foldl (fun mem q => mem.write (0x200 + q.2) q.1) m
  cfg := Config.standard v

/-- The step completes and changes the state as `f` does. -/
def ends (s : State) (f : State → State) : Bool :=
  match step s with
  | .next t => t == f s
  | .fault _ => false
  | .refused _ => false

/-- The step is refused for the reason `r`. -/
def stops (s : State) (r : Refusal) : Bool :=
  match step s with
  | .next _ => false
  | .fault _ => false
  | .refused q => q == r

/-- The decoder reads the bytes as `i` and nothing is left. -/
def reads (c : Ctx) (bs : List Byte) (i : Instr) : Bool :=
  match decode c bs with
  | .ok (j, rest) => j == i && rest.isEmpty
  | .error _ => false

/-! ### Well-formedness refuses ill-formed terms -/

theorem test_wf_unavailable :
    (Instr.xba.wf ⟨.m65C02, .w8, .w8⟩ || (Instr.ldaLong 0).wf ⟨.m6502, .w8, .w8⟩ ||
      (Instr.stzDp 0).wf ⟨.m6502, .w8, .w8⟩) = false := by decide

theorem test_wf_constant_too_wide :
    ((Instr.ldaImm 0x100).wf ⟨.m65816, .w8, .w16⟩ || (Instr.ldxImm 0x100).wf ⟨.m65816, .w16, .w8⟩ ||
      (Instr.ldyImm 0xFFFF).wf ⟨.m6502, .w8, .w8⟩) = false := by decide

theorem test_wf_accepts :
    ((Instr.ldaImm 0xFF).wf ⟨.m6502, .w8, .w8⟩ && (Instr.ldaImm 0xFFFF).wf ⟨.m65816, .w16, .w8⟩ &&
      (Instr.stzDp 0).wf ⟨.m65C02, .w8, .w8⟩ && Instr.xba.wf ⟨.m65816, .w8, .w8⟩) = true := by decide

/-! ### Decoding the words of section 1.5, with the refused ones of R111 and R112 -/

theorem test_decode_lda :
    (reads ⟨.m65816, .w8, .w8⟩ [0xA9, 0x80] (.ldaImm 0x80) &&
      reads ⟨.m65816, .w16, .w8⟩ [0xA9, 0x80, 0x12] (.ldaImm 0x1280) &&
      reads ⟨.m65816, .w8, .w8⟩ [0xAD, 0x34, 0x12] (.ldaAbs 0x1234) &&
      reads ⟨.m65816, .w8, .w8⟩ [0xAF, 0x34, 0x12, 0x7F] (.ldaLong 0x7F1234) &&
      reads ⟨.m65816, .w8, .w8⟩ [0xA5, 0x20] (.ldaDp 0x20) &&
      reads ⟨.m65816, .w8, .w8⟩ [0xB2, 0x20] (.ldaDpInd 0x20) &&
      reads ⟨.m65816, .w8, .w8⟩ [0xA7, 0x20] (.ldaDpIndLong 0x20) &&
      reads ⟨.m65816, .w8, .w8⟩ [0xBD, 0x34, 0x12] (.ldaAbsX 0x1234) &&
      reads ⟨.m65816, .w8, .w8⟩ [0xBF, 0x34, 0x12, 0x7F] (.ldaLongX 0x7F1234) &&
      reads ⟨.m65816, .w8, .w8⟩ [0xB9, 0x34, 0x12] (.ldaAbsY 0x1234) &&
      reads ⟨.m65816, .w8, .w8⟩ [0xB5, 0x20] (.ldaDpX 0x20) &&
      reads ⟨.m65816, .w8, .w8⟩ [0xA1, 0x20] (.ldaDpXInd 0x20) &&
      reads ⟨.m65816, .w8, .w8⟩ [0xB1, 0x20] (.ldaDpIndY 0x20) &&
      reads ⟨.m65816, .w8, .w8⟩ [0xB7, 0x20] (.ldaDpIndLongY 0x20) &&
      reads ⟨.m65816, .w8, .w8⟩ [0xA3, 0x03] (.ldaSr 0x3) &&
      reads ⟨.m65816, .w8, .w8⟩ [0xB3, 0x03] (.ldaSrIndY 0x3)) = true := by decide

theorem test_decode_ldx :
    (reads ⟨.m65816, .w8, .w8⟩ [0xA2, 0x80] (.ldxImm 0x80) &&
      reads ⟨.m65816, .w8, .w16⟩ [0xA2, 0x80, 0x12] (.ldxImm 0x1280) &&
      reads ⟨.m65816, .w8, .w8⟩ [0xAE, 0x34, 0x12] (.ldxAbs 0x1234) &&
      reads ⟨.m65816, .w8, .w8⟩ [0xA6, 0x20] (.ldxDp 0x20) &&
      reads ⟨.m65816, .w8, .w8⟩ [0xBE, 0x34, 0x12] (.ldxAbsY 0x1234) &&
      reads ⟨.m65816, .w8, .w8⟩ [0xB6, 0x20] (.ldxDpY 0x20)) = true := by decide

theorem test_decode_ldy :
    (reads ⟨.m65816, .w8, .w8⟩ [0xA0, 0x80] (.ldyImm 0x80) &&
      reads ⟨.m65816, .w8, .w16⟩ [0xA0, 0x80, 0x12] (.ldyImm 0x1280) &&
      reads ⟨.m65816, .w8, .w8⟩ [0xAC, 0x34, 0x12] (.ldyAbs 0x1234) &&
      reads ⟨.m65816, .w8, .w8⟩ [0xA4, 0x20] (.ldyDp 0x20) &&
      reads ⟨.m65816, .w8, .w8⟩ [0xBC, 0x34, 0x12] (.ldyAbsX 0x1234) &&
      reads ⟨.m65816, .w8, .w8⟩ [0xB4, 0x20] (.ldyDpX 0x20)) = true := by decide

theorem test_decode_sta :
    (reads ⟨.m65816, .w8, .w8⟩ [0x8D, 0x34, 0x12] (.staAbs 0x1234) &&
      reads ⟨.m65816, .w8, .w8⟩ [0x8F, 0x34, 0x12, 0x7F] (.staLong 0x7F1234) &&
      reads ⟨.m65816, .w8, .w8⟩ [0x85, 0x20] (.staDp 0x20) &&
      reads ⟨.m65816, .w8, .w8⟩ [0x92, 0x20] (.staDpInd 0x20) &&
      reads ⟨.m65816, .w8, .w8⟩ [0x87, 0x20] (.staDpIndLong 0x20) &&
      reads ⟨.m65816, .w8, .w8⟩ [0x9D, 0x34, 0x12] (.staAbsX 0x1234) &&
      reads ⟨.m65816, .w8, .w8⟩ [0x9F, 0x34, 0x12, 0x7F] (.staLongX 0x7F1234) &&
      reads ⟨.m65816, .w8, .w8⟩ [0x99, 0x34, 0x12] (.staAbsY 0x1234) &&
      reads ⟨.m65816, .w8, .w8⟩ [0x95, 0x20] (.staDpX 0x20) &&
      reads ⟨.m65816, .w8, .w8⟩ [0x81, 0x20] (.staDpXInd 0x20) &&
      reads ⟨.m65816, .w8, .w8⟩ [0x91, 0x20] (.staDpIndY 0x20) &&
      reads ⟨.m65816, .w8, .w8⟩ [0x97, 0x20] (.staDpIndLongY 0x20) &&
      reads ⟨.m65816, .w8, .w8⟩ [0x83, 0x03] (.staSr 0x3) &&
      reads ⟨.m65816, .w8, .w8⟩ [0x93, 0x03] (.staSrIndY 0x3)) = true := by decide

theorem test_decode_stx :
    (reads ⟨.m65816, .w8, .w8⟩ [0x8E, 0x34, 0x12] (.stxAbs 0x1234) &&
      reads ⟨.m65816, .w8, .w8⟩ [0x86, 0x20] (.stxDp 0x20) &&
      reads ⟨.m65816, .w8, .w8⟩ [0x96, 0x20] (.stxDpY 0x20)) = true := by decide

theorem test_decode_sty :
    (reads ⟨.m65816, .w8, .w8⟩ [0x8C, 0x34, 0x12] (.styAbs 0x1234) &&
      reads ⟨.m65816, .w8, .w8⟩ [0x84, 0x20] (.styDp 0x20) &&
      reads ⟨.m65816, .w8, .w8⟩ [0x94, 0x20] (.styDpX 0x20)) = true := by decide

theorem test_decode_stz :
    (reads ⟨.m65816, .w8, .w8⟩ [0x9C, 0x34, 0x12] (.stzAbs 0x1234) &&
      reads ⟨.m65816, .w8, .w8⟩ [0x64, 0x20] (.stzDp 0x20) &&
      reads ⟨.m65816, .w8, .w8⟩ [0x9E, 0x34, 0x12] (.stzAbsX 0x1234) &&
      reads ⟨.m65816, .w8, .w8⟩ [0x74, 0x20] (.stzDpX 0x20)) = true := by decide

theorem test_decode_transfers :
    (reads ⟨.m65816, .w8, .w8⟩ [0xAA] (.tax) &&
      reads ⟨.m65816, .w8, .w8⟩ [0xA8] (.tay) &&
      reads ⟨.m65816, .w8, .w8⟩ [0x5B] (.tcd) &&
      reads ⟨.m65816, .w8, .w8⟩ [0x1B] (.tcs) &&
      reads ⟨.m65816, .w8, .w8⟩ [0x7B] (.tdc) &&
      reads ⟨.m65816, .w8, .w8⟩ [0x3B] (.tsc) &&
      reads ⟨.m65816, .w8, .w8⟩ [0xBA] (.tsx) &&
      reads ⟨.m65816, .w8, .w8⟩ [0x8A] (.txa) &&
      reads ⟨.m65816, .w8, .w8⟩ [0x9A] (.txs) &&
      reads ⟨.m65816, .w8, .w8⟩ [0x9B] (.txy) &&
      reads ⟨.m65816, .w8, .w8⟩ [0x98] (.tya) &&
      reads ⟨.m65816, .w8, .w8⟩ [0xBB] (.tyx) &&
      reads ⟨.m65816, .w8, .w8⟩ [0xEB] (.xba)) = true := by decide
theorem test_decode_refuses :
    decode ⟨.m6502, .w8, .w8⟩ [0xEA] = .error (.opcodeNotInSpec 0xEA) ∧
    decode ⟨.m6502, .w8, .w8⟩ [0xB2, 0x20] = .error (.opcodeNotAvailable 0xB2 .m6502) ∧
    decode ⟨.m65816, .w16, .w8⟩ [0xA9, 0x80] = .error .truncated := ⟨rfl, rfl, rfl⟩

theorem test_decodeTableWord :
    decodeTableWord 16 0x80A9 = some (.ldaImm 0x80) ∧ decodeTableWord 8 0xAD = some (.ldaAbs 0) ∧
    decodeTableWord 32 0x7F1234AF = some (.ldaLong 0x7F1234) ∧ decodeTableWord 8 0xEA = none :=
  ⟨rfl, rfl, rfl, rfl⟩

theorem test_withFetchWord :
    ends (State.reset.withFetchWord 16 0x80A9) (fun t => { t with a := 0x80, p := 0xB4, pc := 2 }) = true := by decide

/-! ### One step of every instruction -/

theorem test_ldaImm_A4 :
    ends (start .m65816 false 0x10 [0xA9, 0x00, 0x80] [])
      (fun t => { t with b := 0x80, pc := 0x0203, p := 0x90 }) = true := by decide

theorem test_ldaImm_A7 :
    ends ({ start .m65816 false 0x30 [0xA9, 0x00] [] with a := 0x34, b := 0x12 })
      (fun t => { t with a := 0x00, pc := 0x0202, p := 0x32 }) = true := by decide

theorem test_ldaAbs_A11 :
    ends ({ start .m65816 false 0x10 [0xAD, 0xFF, 0xFF] [(0x120000, 0x99), (0x12FFFF, 0xCD), (0x130000, 0xAB)] with
        dbr := 0x12 })
      (fun t => { t with a := 0xCD, b := 0xAB, pc := 0x0203, p := 0x90 }) = true := by decide

theorem test_ldaAbs_A9 :
    ends (start .m6502 true 0x30 [0xAD, 0x34, 0x12] [(0x1234, 0x42)])
      (fun t => { t with a := 0x42, pc := 0x0203 }) = true := by decide

theorem test_ldaLong_A12 :
    ends (start .m65816 false 0x10 [0xAF, 0xFF, 0xFF, 0xFF] [(0x0, 0xAB), (0xFFFFFF, 0xCD)])
      (fun t => { t with a := 0xCD, b := 0xAB, pc := 0x0204, p := 0x90 }) = true := by decide

theorem test_ldaLong_A13 :
    stops (start .m6502 true 0x30 [0xAF, 0x34, 0x12, 0x7F] []) (.opcodeNotAvailable 0xAF .m6502) = true := by decide

theorem test_ldaDp_A15 :
    ends ({ start .m65816 false 0x30 [0xA5, 0x10] [(0x1244, 0x42)] with d := 0x1234 })
      (fun t => { t with a := 0x42, pc := 0x0202 }) = true := by decide

theorem test_ldaDp_A16 :
    ends ({ start .m65816 false 0x10 [0xA5, 0xFF] [(0x0, 0xAB), (0xFFFF, 0xCD), (0x10000, 0x99)] with d := 0xFF00 })
      (fun t => { t with a := 0xCD, b := 0xAB, pc := 0x0202, p := 0x90 }) = true := by decide

theorem test_ldaDpInd_A32 :
    ends ({ start .m65C02 true 0x30 [0xB2, 0x20] [(0x21, 0x30)] with a := 0x55 })
      (fun t => { t with a := 0x00, pc := 0x0202, p := 0x32 }) = true := by decide

theorem test_ldaDpInd_A38 :
    stops ({ start .m65816 true 0x30 [0xB2, 0x20] [(0x100, 0x30)] with
        d := 0x00DF }) (.emuPointerWrap) = true := by decide

theorem test_ldaDpIndLong_A34 :
    ends ({ start .m65816 false 0x10 [0xA7, 0x20] [(0x121, 0x30), (0x122, 0x7F), (0x7F3000, 0xEF), (0x7F3001, 0xBE)] with
        d := 0x0100, dbr := 0x12 })
      (fun t => { t with a := 0xEF, b := 0xBE, pc := 0x0202, p := 0x90 }) = true := by decide

theorem test_ldaAbsX_A23 :
    ends ({ start .m65816 false 0x30 [0xBD, 0xF0, 0xFF] [(0x10010, 0x99), (0x20010, 0x42)] with
        x := 0x0020, dbr := 0x01 })
      (fun t => { t with a := 0x42, pc := 0x0203 }) = true := by decide

theorem test_ldaAbsX_A22 :
    ends ({ start .m6502 true 0x30 [0xBD, 0xF0, 0xFF] [(0x10, 0x42)] with x := 0x0020 })
      (fun t => { t with a := 0x42, pc := 0x0203 }) = true := by decide

theorem test_ldaLongX_A25 :
    ends ({ start .m65816 false 0x30 [0xBF, 0x34, 0x12, 0x7F] [(0x7F1254, 0x42)] with x := 0x0020 })
      (fun t => { t with a := 0x42, pc := 0x0204 }) = true := by decide

theorem test_ldaAbsY_A26 :
    ends ({ start .m6502 true 0x30 [0xB9, 0x34, 0x12] [(0x1235, 0x80)] with y := 0x0001 })
      (fun t => { t with a := 0x80, pc := 0x0203, p := 0xB0 }) = true := by decide

theorem test_ldaDpX_A18 :
    ends ({ start .m65816 false 0x30 [0xB5, 0xF0] [(0x10, 0x99), (0x110, 0x42)] with x := 0x0020 })
      (fun t => { t with a := 0x42, pc := 0x0202 }) = true := by decide

theorem test_ldaDpX_A19 :
    ends ({ start .m65816 true 0x30 [0xB5, 0xF0] [(0x310, 0x42), (0x410, 0x99)] with x := 0x0020, d := 0x0300 })
      (fun t => { t with a := 0x42, pc := 0x0202 }) = true := by decide

theorem test_ldaDpXInd_A28 :
    ends ({ start .m6502 true 0x30 [0xA1, 0xFE] [(0x0, 0x30), (0x100, 0x40), (0x3000, 0x42), (0x4000, 0x99)] with
        x := 0x0001 })
      (fun t => { t with a := 0x42, pc := 0x0202 }) = true := by decide

theorem test_ldaDpXInd_A27 :
    ends ({ start .m6502 true 0x30 [0xA1, 0x20] [(0x25, 0x30), (0x3000, 0x42)] with x := 0x0004 })
      (fun t => { t with a := 0x42, pc := 0x0202 }) = true := by decide

theorem test_ldaDpIndY_A31 :
    ends ({ start .m65816 false 0x30 [0xB1, 0x20] [(0x20, 0xF8), (0x21, 0xFF), (0x120008, 0x99), (0x130008, 0x42)] with
        y := 0x0010, dbr := 0x12 })
      (fun t => { t with a := 0x42, pc := 0x0202 }) = true := by decide

theorem test_ldaDpIndY_A30 :
    ends ({ start .m6502 true 0x30 [0xB1, 0xFF] [(0x0, 0xFF), (0xFF, 0xFF), (0x100, 0x12)] with y := 0x0001 })
      (fun t => { t with a := 0xFF, pc := 0x0202, p := 0xB0 }) = true := by decide

theorem test_ldaDpIndLongY_A35 :
    ends ({ start .m65816 false 0x20 [0xB7, 0x20] [(0x21, 0xF8), (0x22, 0x7E), (0x7F0800, 0x42)] with y := 0x1000 })
      (fun t => { t with a := 0x42, pc := 0x0202 }) = true := by decide

theorem test_ldaSr_A36 :
    ends ({ start .m65816 false 0x30 [0xA3, 0x03] [(0x1FF3, 0x42)] with s := 0x1FF0 })
      (fun t => { t with a := 0x42, pc := 0x0202 }) = true := by decide

theorem test_ldaSr_A40 :
    stops (start .m65816 true 0x30 [0xA3, 0x01] []) (.emuStackRelative) = true := by decide

theorem test_ldaSrIndY_A37 :
    ends ({ start .m65816 false 0x30 [0xB3, 0x03] [(0x1FF4, 0x30), (0x123002, 0x42)] with
        y := 0x0002, s := 0x1FF0, dbr := 0x12 })
      (fun t => { t with a := 0x42, pc := 0x0202 }) = true := by decide

theorem test_ldxImm_X2 :
    ends (start .m65816 false 0x20 [0xA2, 0x34, 0x12] [])
      (fun t => { t with x := 0x1234, pc := 0x0203 }) = true := by decide

theorem test_ldxImm_X3 :
    ends (start .m65816 false 0x10 [0xA2, 0x34, 0x12] [])
      (fun t => { t with x := 0x0034, pc := 0x0202 }) = true := by decide

theorem test_ldxAbs_X6 :
    ends ({ start .m65816 false 0x20 [0xAE, 0x34, 0x12] [(0x7E1234, 0xEF), (0x7E1235, 0xBE)] with dbr := 0x7E })
      (fun t => { t with x := 0xBEEF, pc := 0x0203, p := 0xA0 }) = true := by decide

theorem test_ldxDp_X7 :
    ends (start .m6502 true 0x30 [0xA6, 0x20] [(0x20, 0x42)])
      (fun t => { t with x := 0x0042, pc := 0x0202 }) = true := by decide

theorem test_ldxAbsY_X8 :
    ends ({ start .m6502 true 0x30 [0xBE, 0x34, 0x12] [(0x1235, 0x99), (0x1244, 0x42)] with
        x := 0x0001, y := 0x0010 })
      (fun t => { t with x := 0x0042, pc := 0x0203 }) = true := by decide

theorem test_ldxAbsY_X9 :
    ends ({ start .m6502 true 0x30 [0xBE, 0x34, 0x12] [(0x1235, 0x99), (0x1244, 0x42)] with
        x := 0x0001, y := 0x0010, cfg := { Config.standard .m6502 with ldxIndex := .x } })
      (fun t => { t with x := 0x0099, pc := 0x0203, p := 0xB0 }) = true := by decide

theorem test_ldxDpY_X10 :
    ends ({ start .m6502 true 0x30 [0xB6, 0xF0] [(0x10, 0x80)] with y := 0x0020 })
      (fun t => { t with x := 0x0080, pc := 0x0202, p := 0xB0 }) = true := by decide

theorem test_ldyImm_Y2 :
    ends (start .m65816 false 0x20 [0xA0, 0x00, 0x80] [])
      (fun t => { t with y := 0x8000, pc := 0x0203, p := 0xA0 }) = true := by decide

theorem test_ldyAbs_Y3 :
    ends (start .m65C02 true 0x30 [0xAC, 0x34, 0x12] [(0x1234, 0x7F)])
      (fun t => { t with y := 0x007F, pc := 0x0203 }) = true := by decide

theorem test_ldyDp_Y4 :
    ends (start .m6502 true 0x30 [0xA4, 0x20] [(0x20, 0xFF)])
      (fun t => { t with y := 0x00FF, pc := 0x0202, p := 0xB0 }) = true := by decide

theorem test_ldyAbsX_Y5 :
    ends ({ start .m6502 true 0x30 [0xBC, 0x34, 0x12] [(0x1239, 0x42)] with x := 0x0005 })
      (fun t => { t with y := 0x0042, pc := 0x0203 }) = true := by decide

theorem test_ldyDpX_Y6 :
    ends ({ start .m6502 true 0x30 [0xB4, 0x20] [(0x1F, 0x42), (0x11F, 0x99)] with x := 0x00FF })
      (fun t => { t with y := 0x0042, pc := 0x0202 }) = true := by decide

theorem test_ldyDpX_Y7 :
    ends ({ start .m65816 false 0x00 [0xB4, 0x20] [(0x2120, 0x34), (0x2121, 0x12)] with x := 0x0100, d := 0x2000 })
      (fun t => { t with y := 0x1234, pc := 0x0202 }) = true := by decide

theorem test_staAbs_S1 :
    ends (start .m6502 true 0xB0 [0x8D, 0x34, 0x12] [(0x1234, 0xFF)])
      (fun t => { t with pc := 0x0203, mem := t.mem.write 0x1234 0x00 }) = true := by decide

theorem test_staAbs_S4 :
    ends ({ start .m65816 false 0x10 [0x8D, 0xFF, 0xFF] [] with a := 0xEF, b := 0xBE, dbr := 0x7E })
      (fun t => { t with pc := 0x0203, mem := (t.mem.write 0x7EFFFF 0xEF).write 0x7F0000 0xBE }) = true := by decide

theorem test_staLong_S5 :
    ends ({ start .m65816 false 0x10 [0x8F, 0x34, 0x12, 0x7F] [] with a := 0xEF, b := 0xBE })
      (fun t => { t with pc := 0x0204, mem := (t.mem.write 0x7F1234 0xEF).write 0x7F1235 0xBE }) = true := by decide

theorem test_staDp_S6 :
    ends ({ start .m6502 true 0x30 [0x85, 0x20] [] with a := 0x42 })
      (fun t => { t with pc := 0x0202, mem := t.mem.write 0x20 0x42 }) = true := by decide

theorem test_staDp_S7 :
    ends ({ start .m65816 false 0x10 [0x85, 0xFF] [] with a := 0xEF, b := 0xBE, d := 0xFF00 })
      (fun t => { t with pc := 0x0202, mem := (t.mem.write 0x0 0xBE).write 0xFFFF 0xEF }) = true := by decide

theorem test_staDpInd_S8 :
    ends ({ start .m65C02 true 0x30 [0x92, 0x20] [(0x21, 0x30)] with a := 0x42 })
      (fun t => { t with pc := 0x0202, mem := t.mem.write 0x3000 0x42 }) = true := by decide

theorem test_staDpInd_S9 :
    stops ({ start .m6502 true 0x30 [0x92, 0x20] [] with
        a := 0x42 }) (.opcodeNotAvailable 0x92 .m6502) = true := by decide

theorem test_staDpIndLong_S10 :
    ends ({ start .m65816 false 0x30 [0x87, 0x20] [(0x21, 0x30), (0x22, 0x7F)] with a := 0x42 })
      (fun t => { t with pc := 0x0202, mem := t.mem.write 0x7F3000 0x42 }) = true := by decide

theorem test_staAbsX_S11 :
    ends ({ start .m6502 true 0x30 [0x9D, 0xF0, 0x12] [] with a := 0x42, x := 0x0020 })
      (fun t => { t with pc := 0x0203, mem := t.mem.write 0x1310 0x42 }) = true := by decide

theorem test_staLongX_S12 :
    ends ({ start .m65816 false 0x20 [0x9F, 0x01, 0x00, 0x7E] [] with a := 0x42, x := 0xFFFF })
      (fun t => { t with pc := 0x0204, mem := t.mem.write 0x7F0000 0x42 }) = true := by decide

theorem test_staAbsY_S13 :
    ends ({ start .m6502 true 0x30 [0x99, 0x01, 0x12] [] with a := 0x42, y := 0x00FF })
      (fun t => { t with pc := 0x0203, mem := t.mem.write 0x1300 0x42 }) = true := by decide

theorem test_staDpX_S14 :
    ends ({ start .m6502 true 0x30 [0x95, 0xF0] [] with a := 0x42, x := 0x0020 })
      (fun t => { t with pc := 0x0202, mem := t.mem.write 0x10 0x42 }) = true := by decide

theorem test_staDpXInd_S15 :
    ends ({ start .m6502 true 0x30 [0x81, 0x20] [(0x25, 0x30)] with a := 0x42, x := 0x0004 })
      (fun t => { t with pc := 0x0202, mem := t.mem.write 0x3000 0x42 }) = true := by decide

theorem test_staDpIndY_S16 :
    ends ({ start .m6502 true 0x30 [0x91, 0x20] [(0x20, 0xF8), (0x21, 0x30)] with a := 0x42, y := 0x0010 })
      (fun t => { t with pc := 0x0202, mem := t.mem.write 0x3108 0x42 }) = true := by decide

theorem test_staDpIndLongY_S17 :
    ends ({ start .m65816 false 0x00 [0x97, 0x20] [(0x20, 0xFE), (0x21, 0xFF), (0x22, 0x7E)] with
        a := 0xEF, b := 0xBE, y := 0x0002 })
      (fun t => { t with pc := 0x0202, mem := (t.mem.write 0x7F0000 0xEF).write 0x7F0001 0xBE }) = true := by decide

theorem test_staSr_S18 :
    ends ({ start .m65816 false 0x10 [0x83, 0x01] [] with a := 0xEF, b := 0xBE, s := 0x1FF0 })
      (fun t => { t with pc := 0x0202, mem := (t.mem.write 0x1FF1 0xEF).write 0x1FF2 0xBE }) = true := by decide

theorem test_staSrIndY_S19 :
    ends ({ start .m65816 false 0x30 [0x93, 0x01] [(0x1FF2, 0x30)] with
        a := 0x42, y := 0x0002, s := 0x1FF0, dbr := 0x12 })
      (fun t => { t with pc := 0x0202, mem := t.mem.write 0x123002 0x42 }) = true := by decide

theorem test_stxAbs_SX4 :
    ends ({ start .m65816 false 0x20 [0x8E, 0x34, 0x12] [] with x := 0xBEEF, dbr := 0x7E })
      (fun t => { t with pc := 0x0203, mem := (t.mem.write 0x7E1234 0xEF).write 0x7E1235 0xBE }) = true := by decide

theorem test_stxAbs_SX5 :
    ends ({ start .m65816 false 0x10 [0x8E, 0x34, 0x12] [] with x := 0x00EF, dbr := 0x7E })
      (fun t => { t with pc := 0x0203, mem := t.mem.write 0x7E1234 0xEF }) = true := by decide

theorem test_stxDp_SX2 :
    ends ({ start .m6502 true 0x30 [0x86, 0x20] [] with x := 0x0080 })
      (fun t => { t with pc := 0x0202, mem := t.mem.write 0x20 0x80 }) = true := by decide

theorem test_stxDpY_SX3 :
    ends ({ start .m6502 true 0x30 [0x96, 0xF0] [] with x := 0x0042, y := 0x0020 })
      (fun t => { t with pc := 0x0202, mem := t.mem.write 0x10 0x42 }) = true := by decide

theorem test_styAbs_SY1 :
    ends ({ start .m6502 true 0x30 [0x8C, 0x34, 0x12] [] with y := 0x0042 })
      (fun t => { t with pc := 0x0203, mem := t.mem.write 0x1234 0x42 }) = true := by decide

theorem test_styDp_SY2 :
    ends (start .m6502 true 0x30 [0x84, 0x20] [(0x20, 0xFF)])
      (fun t => { t with pc := 0x0202, mem := t.mem.write 0x20 0x00 }) = true := by decide

theorem test_styDpX_SY3 :
    ends ({ start .m6502 true 0x30 [0x94, 0x20] [] with x := 0x0001, y := 0x0042 })
      (fun t => { t with pc := 0x0202, mem := t.mem.write 0x21 0x42 }) = true := by decide

theorem test_styDpX_SY4 :
    ends ({ start .m65816 false 0x20 [0x94, 0x20] [] with x := 0x0100, y := 0x1234, d := 0x2000 })
      (fun t => { t with pc := 0x0202, mem := (t.mem.write 0x2120 0x34).write 0x2121 0x12 }) = true := by decide

theorem test_stzAbs_Z5 :
    ends ({ start .m65816 false 0x10 [0x9C, 0x34, 0x12] [(0x7E1234, 0xFF), (0x7E1235, 0xFF)] with dbr := 0x7E })
      (fun t => { t with pc := 0x0203, mem := (t.mem.write 0x7E1234 0x00).write 0x7E1235 0x00 }) = true := by decide

theorem test_stzAbs_Z7 :
    stops (start .m6502 true 0x30 [0x9C, 0x34, 0x12] []) (.opcodeNotAvailable 0x9C .m6502) = true := by decide

theorem test_stzDp_Z2 :
    ends (start .m65C02 true 0x30 [0x64, 0x20] [(0x20, 0xFF)])
      (fun t => { t with pc := 0x0202, mem := t.mem.write 0x20 0x00 }) = true := by decide

theorem test_stzAbsX_Z3 :
    ends ({ start .m65C02 true 0x30 [0x9E, 0x34, 0x12] [(0x1235, 0xFF)] with x := 0x0001 })
      (fun t => { t with pc := 0x0203, mem := t.mem.write 0x1235 0x00 }) = true := by decide

theorem test_stzDpX_Z4 :
    ends ({ start .m65C02 true 0x30 [0x74, 0xF0] [(0x10, 0xFF)] with x := 0x0020 })
      (fun t => { t with pc := 0x0202, mem := t.mem.write 0x10 0x00 }) = true := by decide

theorem test_tax_T2 :
    ends ({ start .m65816 false 0x20 [0xAA] [] with a := 0x34, b := 0x12 })
      (fun t => { t with x := 0x1234, pc := 0x0201 }) = true := by decide

theorem test_tax_T3 :
    ends ({ start .m65816 false 0x10 [0xAA] [] with b := 0x12, x := 0x0055 })
      (fun t => { t with x := 0x0000, pc := 0x0201, p := 0x12 }) = true := by decide

theorem test_tay_T5 :
    ends ({ start .m6502 true 0x30 [0xA8] [] with y := 0x0055 })
      (fun t => { t with y := 0x0000, pc := 0x0201, p := 0x32 }) = true := by decide

theorem test_tay_T6 :
    ends ({ start .m65816 false 0x20 [0xA8] [] with a := 0xFF, b := 0x7F })
      (fun t => { t with y := 0x7FFF, pc := 0x0201 }) = true := by decide

theorem test_tcd_T8 :
    ends ({ start .m65816 false 0x30 [0x5B] [] with b := 0x80 })
      (fun t => { t with d := 0x8000, pc := 0x0201, p := 0xB0 }) = true := by decide

theorem test_tcd_T9 :
    stops (start .m65C02 true 0x30 [0x5B] []) (.opcodeNotAvailable 0x5B .m65C02) = true := by decide

theorem test_tcs_T21 :
    ends ({ start .m65816 false 0xB2 [0x1B] [] with a := 0xF0, b := 0x1F })
      (fun t => { t with s := 0x1FF0, pc := 0x0201 }) = true := by decide

theorem test_tcs_T22 :
    ends ({ start .m65816 true 0x30 [0x1B] [] with a := 0xF0, b := 0x1F })
      (fun t => { t with s := 0x01F0, pc := 0x0201 }) = true := by decide

theorem test_tdc_T10 :
    ends ({ start .m65816 false 0x30 [0x7B] [] with a := 0x55, b := 0x55 })
      (fun t => { t with a := 0x00, b := 0x00, pc := 0x0201, p := 0x32 }) = true := by decide

theorem test_tsc_T24 :
    ends ({ start .m65816 false 0x30 [0x3B] [] with s := 0x8000 })
      (fun t => { t with b := 0x80, pc := 0x0201, p := 0xB0 }) = true := by decide

theorem test_tsc_T25 :
    ends ({ start .m65816 true 0x30 [0x3B] [] with b := 0x77 })
      (fun t => { t with a := 0xFF, b := 0x01, pc := 0x0201 }) = true := by decide

theorem test_tsx_T26 :
    ends (start .m6502 true 0x30 [0xBA] [])
      (fun t => { t with x := 0x00FF, pc := 0x0201, p := 0xB0 }) = true := by decide

theorem test_tsx_T28 :
    ends ({ start .m65816 false 0x30 [0xBA] [] with x := 0x0055, s := 0x1F00 })
      (fun t => { t with x := 0x0000, pc := 0x0201, p := 0x32 }) = true := by decide

theorem test_txa_T12 :
    ends ({ start .m65816 false 0x10 [0x8A] [] with a := 0x99, b := 0x77, x := 0x0080 })
      (fun t => { t with a := 0x80, b := 0x00, pc := 0x0201 }) = true := by decide

theorem test_txa_T13 :
    ends ({ start .m65816 false 0x20 [0x8A] [] with a := 0x99, b := 0x77, x := 0x1280 })
      (fun t => { t with a := 0x80, pc := 0x0201, p := 0xA0 }) = true := by decide

theorem test_txs_T30 :
    ends ({ start .m65816 false 0x30 [0x9A] [] with x := 0x0080, s := 0x1FFF })
      (fun t => { t with s := 0x0080, pc := 0x0201 }) = true := by decide

theorem test_txs_T32 :
    ends ({ start .m65816 true 0x30 [0x9A] [] with x := 0x0080 })
      (fun t => { t with s := 0x0180, pc := 0x0201 }) = true := by decide

theorem test_txy_T17 :
    ends ({ start .m65816 false 0x20 [0x9B] [] with x := 0x8000 })
      (fun t => { t with y := 0x8000, pc := 0x0201, p := 0xA0 }) = true := by decide

theorem test_tya_T15 :
    ends ({ start .m65816 false 0x10 [0x98] [] with a := 0x99, b := 0x77 })
      (fun t => { t with a := 0x00, b := 0x00, pc := 0x0201, p := 0x12 }) = true := by decide

theorem test_tyx_T19 :
    ends ({ start .m65816 false 0x20 [0xBB] [] with y := 0x1234 })
      (fun t => { t with x := 0x1234, pc := 0x0201 }) = true := by decide

theorem test_xba_T33 :
    ends ({ start .m65816 false 0x00 [0xEB] [] with a := 0xFF })
      (fun t => { t with a := 0x00, b := 0xFF, pc := 0x0201, p := 0x02 }) = true := by decide

theorem test_xba_T36 :
    stops (start .m65C02 true 0x30 [0xEB] []) (.opcodeNotAvailable 0xEB .m65C02) = true := by decide
/-! ### Witnesses: states -/

/-- A 6502 at the edges of its registers: `X` = `Y` = 0xFF. -/
def edge8 : State := { start .m6502 true 0x30 [] [(0x00, 0x34), (0xFF, 0xFF)] with a := 0xFF, x := 0xFF, y := 0xFF }

/-- A 65C02 at the same edges. -/
def edgeC : State := { start .m65C02 true 0x30 [] [(0x00, 0x34), (0xFF, 0xFF)] with a := 0xFF, x := 0xFF, y := 0xFF }

/-- A 65816 in native mode, 16-bit data and index registers, every register at its highest value. -/
def edge16 : State :=
  { start .m65816 false 0x00 [] [] with
    a := 0xFF, b := 0xFF, x := 0xFFFF, y := 0xFFFF, s := 0xFFFF, d := 0xFFFF, dbr := 0xFF }

/-- A 65816 in native mode with 8-bit data and index registers. -/
def edgeN8 : State :=
  { start .m65816 false 0x30 [] [] with
      a := 0xFF, b := 0xFF, x := 0xFF, y := 0xFF, s := 0xFFFF, d := 0xFFFF, dbr := 0xFF }

/-- A 65816 in emulation mode with `DL` = 0. -/
def emu : State := { start .m65816 true 0x30 [] [] with x := 0xFF, y := 0xFF, d := 0x0300, dbr := 0xFF, s := 0x01F0 }

/-- A 65816 in emulation mode with `DL` = 1. -/
def emuDl : State := { emu with d := 0x0301 }

/-- A platform with ROM below 0x100, a device at 0x100, an absent address at 0x101 and RAM above. -/
def board (s : State) : State :=
  { s with cfg := { s.cfg with memMap := [⟨0, 0x100, .rom⟩, ⟨0x100, 1, .device⟩, ⟨0x101, 1, .absent⟩] } }

/-- With no region named, everything is plain memory. -/
theorem plain {s : State} (h : s.cfg.memMap = []) (a : Addr) : s.readable a = true ∧ s.writable a = true := by
  simp [State.readable, State.writable, State.kindAt, kindIn, h]

theorem can_read {s : State} (h : s.cfg.memMap = []) {w : Width} {m : EA} : CanRead s w m := fun a _ => (plain h a).1

theorem can_write {s : State} (h : s.cfg.memMap = []) {w : Width} {m : EA} : CanWrite s w m :=
  fun a _ => (plain h a).2

/-! ### Witnesses: encoding -/

theorem witness_DecodeOfEncode :
    (Instr.ldaImm 0xFF).wf ⟨.m6502, .w8, .w8⟩ = true ∧ (Instr.ldxImm 0xFFFF).wf ⟨.m65816, .w8, .w16⟩ = true ∧
    (Instr.staLongX 0xFFFFFF).wf ⟨.m65816, .w16, .w16⟩ = true := by decide

theorem witness_EncodeOfDecode :
    decode ⟨.m65816, .w8, .w16⟩ [0xA2, 0xFF, 0xFF, 0xEA] = .ok (.ldxImm 0xFFFF, [0xEA]) ∧
    decode ⟨.m6502, .w8, .w8⟩ [0xAA] = .ok (.tax, []) := ⟨rfl, rfl⟩

/-- Every row is available on the 65816, the rows of all variants on the 6502; both widths of each immediate. -/
theorem witness_OperandAssembly :
    (table.all fun r => r.avail.allows .m65816) = true ∧ Instr.tax.avail.allows .m6502 = true ∧
    (Instr.ldaAbs 0).avail.allows .m6502 = true ∧ (Instr.stzDp 0xFF).avail.allows .m65C02 = true ∧
    (⟨.m65816, .w8, .w16⟩ : Ctx).wA = .w8 ∧ (⟨.m65816, .w8, .w16⟩ : Ctx).wI = .w16 := by decide

theorem witness_InstructionLengths :
    edge16.cfg.indexWidthFlag = .x ∧ edge16.wX = .w16 ∧ edge8.wX = .w8 ∧ edge16.wA = .w16 ∧ edge8.wA = .w8 ∧
    (Instr.ldaLong 0xFFFFFF).immediate? edge16.ctx = none ∧ Instr.tax.immediate? edge16.ctx = none := by decide

theorem witness_Availability :
    Instr.xba.avail.allows edge8.cfg.variant = false ∧ Instr.xba.avail.allows edgeC.cfg.variant = false ∧
    (Instr.stzDp 0).avail.allows edge8.cfg.variant = false := by decide

/-! ### Witnesses: fetch and step -/

theorem witness_UnknownBytesRefused :
    (let s := start .m6502 true 0x30 [0xEA] []
     s.NoAsyncEvents ∧ s.readable (s.fetchAddr 0) = true ∧ rowOf (s.byteAt (s.fetchAddr 0)) = none) ∧
    (let s := start .m65C02 true 0x30 [0xEB] []
     s.NoAsyncEvents ∧ s.readable (s.fetchAddr 0) = true ∧ Instr.xba.opcode = s.byteAt (s.fetchAddr 0) ∧
      Instr.xba.avail.allows s.cfg.variant = false) := by decide

/-- The instruction straddles the end of the program bank. -/
def straddling : State :=
  { start .m65816 false 0x00 [] [(0x10000, 0x12), (0x10001, 0x34), (0x1FFFF, 0xA9)] with pbr := 0x01, pc := 0xFFFF }

theorem witness_StepRunsDecoded :
    straddling.NoAsyncEvents ∧ (Instr.ldaImm 0x3412).wf straddling.ctx = true ∧
    straddling.CodeAt straddling.pc (encode straddling.ctx (.ldaImm 0x3412)) ∧
    (∀ k < (encode straddling.ctx (.ldaImm 0x3412)).length, straddling.readable (straddling.fetchAddr k) = true) := by
  decide

theorem witness_ProgramCounter :
    straddling.cfg.variant = .m65816 ∧ edge8.cfg.variant ≠ .m65816 ∧ (∃ t, exec (.ldaImm 0x3412) straddling = .next t) ∧
    ∃ t, exec .tax edge8 = .next t := ⟨by decide, by decide, ⟨_, rfl⟩, ⟨_, rfl⟩⟩

theorem witness_InterruptsRefused : ({ edge8 with
    cfg := { edge8.cfg with interrupts := true } }).cfg.interrupts = true :=
  rfl

/-- Storing 0xEA makes the next step refuse; storing 0xAA makes it run TAX. -/
theorem witness_StoreSeenByFetch :
    (let s := { start .m6502 true 0x30 [] [] with a := 0xEA }
     s.NoAsyncEvents ∧ s.wA = .w8 ∧ s.a24 s.dbrReg 0x0203 = s.fetchAddr 3 ∧ s.writable (s.fetchAddr 3) = true ∧
      rowOf s.a = none) ∧
    (let s := { start .m6502 true 0x30 [] [] with a := 0xAA }
     s.NoAsyncEvents ∧ s.wA = .w8 ∧ s.a24 s.dbrReg 0x0203 = s.fetchAddr 3 ∧ s.writable (s.fetchAddr 3) = true ∧
      encode s.ctx .tax = [s.a] ∧ Instr.tax.avail.allows s.cfg.variant = true) := by decide

theorem witness_lookup_error : lookup .m6502 0xEA = .error (.opcodeNotInSpec 0xEA) := rfl

/-! ### Witnesses: memory -/

theorem witness_StoreThenLoad :
    CanWrite edge8 edge8.wA (eaAbs 0xFFFF edge8) ∧ CanWrite edge16 edge16.wA (eaAbs 0xFFFF edge16) :=
  ⟨can_write rfl, can_write rfl⟩

theorem witness_EqualMemories :
    let m := Memory.write (Memory.write [] 0xFFFFFF 1) 0 2
    let n := Memory.write (Memory.write (Memory.write [] 0 2) 5 0) 0xFFFFFF 1
    m.wf ∧ n.wf ∧ ∀ a, m.read a = n.read a :=
  ⟨by decide, by decide, fun a => congrArg (fun m => Memory.read m a) (by decide)⟩

theorem witness_LittleEndianData :
    CanRead edge16 .w8 ⟨0, 1⟩ ∧ CanRead edge16 .w16 ⟨0xFFFFFF, 0⟩ ∧
    (CanWrite edge16 .w16 ⟨0xFFFFFF, 0⟩ ∧ (0xFFFFFF : Addr) ≠ 0) ∧
    ∃ v v', readDatum edge8 .w16 ⟨0xFF, 0⟩ = .ok v ∧ readDatum edge8 .w8 ⟨0xFF, 0⟩ = .ok v' :=
  ⟨can_read rfl, can_read rfl, ⟨can_write rfl, by decide⟩, _, _, rfl, rfl⟩

theorem witness_NotPlainMemoryRefused :
    let s := board edge8
    s.kindAt 0x100 = .device ∧ s.kindAt 0x101 = .absent ∧ s.kindAt 0xFF ≠ .ram ∧
    s.readable 0x100 = false ∧ (s.readable 0xFF = true ∧ s.readable 0x100 = false) ∧
    s.writable 0xFF = false ∧ (s.writable 0x102 = true ∧ s.writable 0x101 = false) := by decide

theorem witness_Widths :
    edge16.cfg.indexWidthFlag = .x ∧
    ({ edge16 with cfg := { edge16.cfg with indexWidthFlag := .m } }).cfg.indexWidthFlag = .m := ⟨rfl, rfl⟩

/-! ### Witnesses: addressing modes -/

theorem witness_AddressArithmetic : edge16.cfg.variant = .m65816 ∧ edge8.cfg.variant ≠ .m65816 := by decide

/-- Serves DirectPageModes too: the three cases of R131, native mode with
    `DL` = 0 and emulation mode with `DL` = 1. -/
theorem witness_DirectPageAddress :
    edge8.cfg.variant ≠ .m65816 ∧
    (emu.cfg.variant = .m65816 ∧ emu.e = true ∧ emu.d.toNat % 256 = 0) ∧
    (emuDl.cfg.variant = .m65816 ∧ ¬ (emuDl.e = true ∧ emuDl.d.toNat % 256 = 0)) ∧
    (edge16.cfg.variant = .m65816 ∧ ¬ (edge16.e = true ∧ edge16.d.toNat % 256 = 0)) := by decide

theorem witness_DirectPageModes :
    let q := (eaDpX 0xFF emu, (0xFF : Byte).toNat + emu.x.toNat)
    q ∈ [(eaDp 0xFF emu, (0xFF : Byte).toNat), (eaDpX 0xFF emu, (0xFF : Byte).toNat + emu.x.toNat),
      (eaDpY 0xFF emu, (0xFF : Byte).toNat + emu.y.toNat)] ∧
    emu.cfg.variant = .m65816 ∧ emu.e = true ∧ emu.d.toNat % 256 = 0 := by decide

theorem witness_PointerReads :
    let s := board edge8
    (s.readable 0x00 = true ∧ s.readable 0xFF = true ∧ s.readable 0x102 = true) ∧
    s.readable 0x100 = false ∧ (s.readable 0xFF = true ∧ s.readable 0x101 = false) ∧
    (s.readable 0xFF = true ∧ s.readable 0x102 = true ∧ s.readable 0x100 = false) := by decide

theorem witness_ImmediateDatum :
    straddling.cfg.variant = .m65816 ∧ edge8.cfg.variant ≠ .m65816 ∧
    ((Instr.ldaImm 0x3412).wf straddling.ctx = true ∧ straddling.CodeAt straddling.pc (encode straddling.ctx (.ldaImm 0x3412))) ∧
    (let s := { straddling with mem := straddling.mem.write 0x1FFFF 0xA2 }
     (Instr.ldxImm 0x3412).wf s.ctx = true ∧ s.CodeAt s.pc (encode s.ctx (.ldxImm 0x3412))) ∧
    (let s := start .m6502 true 0x30 [0xA0, 0xFF] []
     (Instr.ldyImm 0xFF).wf s.ctx = true ∧ s.CodeAt s.pc (encode s.ctx (.ldyImm 0xFF))) := by decide

theorem witness_AbsoluteModes :
    edge16.cfg.variant = .m65816 ∧ edge8.cfg.variant ≠ .m65816 ∧
    eaLongX 0xFFFFFF edge16 ∈ [eaAbs 0xFFFF edge16, eaLong 0xFFFFFF edge16, eaAbsX 0xFFFF edge16,
      eaLongX 0xFFFFFF edge16, eaAbsY 0xFFFF edge16] ∧
    eaAbsX 0xFFFF edge8 ∈ [eaAbs 0xFFFF edge8, eaAbsX 0xFFFF edge8, eaAbsY 0xFFFF edge8] := by decide

/-- The last offset that does not straddle in emulation mode, and offsets that straddle where that is no matter. -/
theorem witness_PointerModes :
    ((emu.cornersRefused && emu.straddles16 (offset 0xFE)) = false ∧ emu.readable (emu.dpa (offset 0xFE)) = true ∧
      emu.readable (emu.dpa (offset 0xFE + 1)) = true ∧ emu.cfg.variant = .m65816) ∧
    ((edge16.cornersRefused && edge16.straddles16 (offset 0xFF + edge16.x)) = false ∧
      edge16.readable (edge16.dpa (offset 0xFF + edge16.x)) = true ∧
      edge16.readable (edge16.dpa (offset 0xFF + edge16.x + 1)) = true ∧ edge16.cfg.variant = .m65816) ∧
    ((edge8.cornersRefused && edge8.straddles16 (offset 0xFF)) = false ∧
      edge8.readable (edge8.dpa (offset 0xFF)) = true ∧ edge8.readable (edge8.dpa (offset 0xFF + 1)) = true ∧
      edge8.cfg.variant ≠ .m65816) := by decide

theorem witness_LongPointerModes :
    (emu.cfg.variant = .m65816 ∧ (emu.cornersRefused && emu.straddles24 (offset 0xFD)) = false ∧
      emu.readable (emu.dpl (offset 0xFD)) = true ∧ emu.readable (emu.dpl (offset 0xFD + 1)) = true ∧
      emu.readable (emu.dpl (offset 0xFD + 2)) = true) ∧
    (edge16.cfg.variant = .m65816 ∧ (edge16.cornersRefused && edge16.straddles24 (offset 0xFF)) = false ∧
      edge16.readable (edge16.dpl (offset 0xFF)) = true ∧ edge16.readable (edge16.dpl (offset 0xFF + 1)) = true ∧
      edge16.readable (edge16.dpl (offset 0xFF + 2)) = true) := by decide

theorem witness_StackModes :
    (emu.cfg.variant = .m65816 ∧ (emu.cornersRefused && emu.leavesPage1 0x0F 1) = false ∧
      (emu.cornersRefused && emu.leavesPage1 0x0E 2) = false ∧
      (0x01FE : Addr).toNat = (emu.s.toNat + (0x0E : Byte).toNat) % 65536 ∧
      (0x01FF : Addr).toNat = (emu.s.toNat + (0x0E : Byte).toNat + 1) % 65536 ∧
      emu.readable 0x01FE = true ∧ emu.readable 0x01FF = true) ∧
    (edge16.cfg.variant = .m65816 ∧ (edge16.cornersRefused && edge16.leavesPage1 0xFF 2) = false ∧
      (0x00FE : Addr).toNat = (edge16.s.toNat + (0xFF : Byte).toNat) % 65536 ∧
      (0x00FF : Addr).toNat = (edge16.s.toNat + (0xFF : Byte).toNat + 1) % 65536 ∧
      edge16.readable 0x00FE = true ∧ edge16.readable 0x00FF = true) := by decide

/-- Each corner at its first offset, and the three ways out of R151 with a mode that is refused for its memory. -/
theorem witness_EmulationCorners :
    (emu.cfg.variant = .m65816 ∧ emu.e = true ∧ emu.cfg.emuDpCorners = .refuse ∧
      (emu.d.toNat + (0xFF : Byte).toNat) % 256 = 0xFF ∧ (emu.d.toNat + (0x00 : Byte).toNat + emu.x.toNat) % 256 = 0xFF ∧
      0xFE ≤ (emu.d.toNat + (0xFE : Byte).toNat) % 256 ∧ 0xFF < emu.s.toNat % 256 + (0x10 : Byte).toNat ∧
      0xFF < emu.s.toNat % 256 + (0x0F : Byte).toNat + 1) ∧
    (let s := board edge8
     ¬ (s.cfg.variant = .m65816 ∧ s.e = true ∧ s.cfg.emuDpCorners = .refuse)) ∧
    (let s := board { emu with d := 0x0000, cfg := { emu.cfg with emuDpCorners := .asGiven } }
     ¬ (s.cfg.variant = .m65816 ∧ s.e = true ∧ s.cfg.emuDpCorners = .refuse)) ∧
    (let s := board { edge16 with d := 0x0000 }
     ¬ (s.cfg.variant = .m65816 ∧ s.e = true ∧ s.cfg.emuDpCorners = .refuse)) := by decide

theorem witness_EmulationCorners_refused_for_memory :
    eaDpIndLong 0xFE (board { edge16 with d := 0x0000 }) = .error (.notPlainMemory 0x100) ∧
    eaDpInd 0xFF (board { emu with d := 0x0001, cfg := { emu.cfg with emuDpCorners := .asGiven } })
      = .error (.notPlainMemory 0x100) ∧
    eaSrIndY 0x01 (board { edge16 with s := 0x00FF }) = .error (.notPlainMemory 0x100) := ⟨rfl, rfl, rfl⟩

theorem witness_LdxIndexRegister :
    edge8.cfg.ldxIndex = .y ∧ ({ edge8 with
        cfg := { edge8.cfg with ldxIndex := .x } }).cfg.ldxIndex = .x := ⟨rfl, rfl⟩

/-! ### Witnesses: loads and stores -/

/-- The hypotheses of `LoadsA`, `LoadsX`, `LoadsY` and `Stores` for one instruction: available, an address found, the
datum in plain memory. -/
def Runs (i : Instr) (s : State) (w : Width) (mode : Except Refusal EA) : Prop :=
  i.avail.allows s.cfg.variant = true ∧ ∃ m, mode = .ok m ∧ CanRead s w m ∧ CanWrite s w m

/-- All 14 forms of LDA and of STA through memory, on the 65816 at 16 bits. -/
theorem witness_LoadAccumulator_StoreAccumulator :
    ∀ q ∈ [(Instr.ldaAbs 0xFFFF, Instr.staAbs 0xFFFF, Except.ok (eaAbs 0xFFFF edge16)),
      (.ldaLong 0xFFFFFF, .staLong 0xFFFFFF, .ok (eaLong 0xFFFFFF edge16)),
      (.ldaDp 0xFF, .staDp 0xFF, .ok (eaDp 0xFF edge16)), (.ldaDpInd 0xFF, .staDpInd 0xFF, eaDpInd 0xFF edge16),
      (.ldaDpIndLong 0xFF, .staDpIndLong 0xFF, eaDpIndLong 0xFF edge16),
      (.ldaAbsX 0xFFFF, .staAbsX 0xFFFF, .ok (eaAbsX 0xFFFF edge16)),
      (.ldaLongX 0xFFFFFF, .staLongX 0xFFFFFF, .ok (eaLongX 0xFFFFFF edge16)),
      (.ldaAbsY 0xFFFF, .staAbsY 0xFFFF, .ok (eaAbsY 0xFFFF edge16)),
      (.ldaDpX 0xFF, .staDpX 0xFF, .ok (eaDpX 0xFF edge16)), (.ldaDpXInd 0xFF, .staDpXInd 0xFF, eaDpXInd 0xFF edge16),
      (.ldaDpIndY 0xFF, .staDpIndY 0xFF, eaDpIndY 0xFF edge16),
      (.ldaDpIndLongY 0xFF, .staDpIndLongY 0xFF, eaDpIndLongY 0xFF edge16),
      (.ldaSr 0xFF, .staSr 0xFF, eaSr 0xFF edge16), (.ldaSrIndY 0xFF, .staSrIndY 0xFF, eaSrIndY 0xFF edge16)],
      Runs q.1 edge16 edge16.wA q.2.2 ∧ Runs q.2.1 edge16 edge16.wA q.2.2 := by
  repeat' first
    | exact List.forall_mem_nil _
    | exact ⟨⟨rfl, _, rfl, can_read rfl, can_write rfl⟩, rfl, _, rfl, can_read rfl, can_write rfl⟩
    | refine List.forall_mem_cons.2 ⟨?_, ?_⟩

/-- The forms of LDA and STA that the 8-bit processors have, on the 65C02. -/
theorem witness_LoadAccumulator_StoreAccumulator_8bit :
    ∀ q ∈ [(Instr.ldaAbs 0xFFFF, Instr.staAbs 0xFFFF, Except.ok (eaAbs 0xFFFF edgeC)),
      (.ldaDp 0xFF, .staDp 0xFF, .ok (eaDp 0xFF edgeC)), (.ldaDpInd 0xFF, .staDpInd 0xFF, eaDpInd 0xFF edgeC),
      (.ldaAbsX 0xFFFF, .staAbsX 0xFFFF, .ok (eaAbsX 0xFFFF edgeC)),
      (.ldaAbsY 0xFFFF, .staAbsY 0xFFFF, .ok (eaAbsY 0xFFFF edgeC)),
      (.ldaDpX 0xFF, .staDpX 0xFF, .ok (eaDpX 0xFF edgeC)), (.ldaDpXInd 0xFF, .staDpXInd 0xFF, eaDpXInd 0xFF edgeC),
      (.ldaDpIndY 0xFF, .staDpIndY 0xFF, eaDpIndY 0xFF edgeC)],
      Runs q.1 edgeC edgeC.wA q.2.2 ∧ Runs q.2.1 edgeC edgeC.wA q.2.2 := by
  repeat' first
    | exact List.forall_mem_nil _
    | exact ⟨⟨rfl, _, rfl, can_read rfl, can_write rfl⟩, rfl, _, rfl, can_read rfl, can_write rfl⟩
    | refine List.forall_mem_cons.2 ⟨?_, ?_⟩

/-- All forms of LDX, LDY, STX, STY and STZ through memory, on the 65816 at 16 bits. -/
theorem witness_index_and_zero :
    ∀ q ∈ [(Instr.ldxAbs 0xFFFF, Except.ok (eaAbs 0xFFFF edge16)), (.ldxDp 0xFF, .ok (eaDp 0xFF edge16)),
      (.ldxAbsY 0xFFFF, .ok (eaLdxAbs 0xFFFF edge16)), (.ldxDpY 0xFF, .ok (eaLdxDp 0xFF edge16)),
      (.ldyAbs 0xFFFF, .ok (eaAbs 0xFFFF edge16)), (.ldyDp 0xFF, .ok (eaDp 0xFF edge16)),
      (.ldyAbsX 0xFFFF, .ok (eaAbsX 0xFFFF edge16)), (.ldyDpX 0xFF, .ok (eaDpX 0xFF edge16)),
      (.stxAbs 0xFFFF, .ok (eaAbs 0xFFFF edge16)), (.stxDp 0xFF, .ok (eaDp 0xFF edge16)),
      (.stxDpY 0xFF, .ok (eaDpY 0xFF edge16)), (.styAbs 0xFFFF, .ok (eaAbs 0xFFFF edge16)),
      (.styDp 0xFF, .ok (eaDp 0xFF edge16)), (.styDpX 0xFF, .ok (eaDpX 0xFF edge16)),
      (.stzAbs 0xFFFF, .ok (eaAbs 0xFFFF edge16)), (.stzDp 0xFF, .ok (eaDp 0xFF edge16)),
      (.stzAbsX 0xFFFF, .ok (eaAbsX 0xFFFF edge16)), (.stzDpX 0xFF, .ok (eaDpX 0xFF edge16))],
      Runs q.1 edge16 edge16.wI q.2 ∧ Runs q.1 edge16 edge16.wA q.2 := by
  repeat' first
    | exact List.forall_mem_nil _
    | exact ⟨⟨rfl, _, rfl, can_read rfl, can_write rfl⟩, rfl, _, rfl, can_read rfl, can_write rfl⟩
    | refine List.forall_mem_cons.2 ⟨?_, ?_⟩

/-! ### Witnesses: transfers -/

/-- Every transfer is available on the 65816; the premise of the refusals holds on the other two. -/
theorem witness_transfers :
    (∀ i ∈ [Instr.tax, .tay, .tcd, .tcs, .tdc, .tsc, .tsx, .txa, .txs, .txy, .tya, .tyx, .xba],
      i.avail.allows edge16.cfg.variant = true) ∧
    (∀ i ∈ [Instr.tax, .tay, .tsx, .txa, .txs, .tya], i.avail.allows edge8.cfg.variant = true) ∧
    (∀ i ∈ [Instr.tcd, .tcs, .tdc, .tsc, .txy, .tyx, .xba], i.avail.allows edgeC.cfg.variant = false) := by decide

/-- An 8-bit index register and a 16-bit accumulator in a well-formed state (R259). -/
theorem witness_IndexToAccumulator :
    let s := { start .m65816 false 0x10 [] [] with b := 0xFF, x := 0xFF, y := 0xFF }
    s.WellFormed ∧ s.wX = .w8 ∧ s.wA = .w16 ∧ Instr.txa.avail.allows s.cfg.variant = true := by decide

theorem witness_TransferRoundTrips :
    edge16.cfg.variant = .m65816 ∧ ¬ (edge16.wA = .w16 ∧ edge16.wX = .w8) ∧ ¬ (edge8.wA = .w16 ∧ edge8.wX = .w8) := by
  decide

/-! ### Witnesses: the whole machine -/

theorem witness_SystemRegistersKept :
    ∃ t, exec .tax edge16 = .next t ∧ Instr.tax ≠ .tcd ∧ Instr.tax ≠ .tcs ∧ Instr.tax ≠ .txs :=
  ⟨_, rfl, by decide, by decide, by decide⟩

theorem witness_StoresAloneWriteMemory :
    (∃ t, exec (.staAbs 0xFFFF) edge16 = .next t) ∧ (∃ t, exec .xba edge16 = .next t) ∧
    (∃ t, exec .tcs edge16 = .next t) ∧ ∃ t, exec .txs edge8 = .next t := ⟨⟨_, rfl⟩, ⟨_, rfl⟩, ⟨_, rfl⟩, ⟨_, rfl⟩⟩

theorem witness_WellFormedKept :
    (edge8.WellFormed ∧ edge8.cfg.indexWidthFlag = .x ∧ ∃ t, exec .txs edge8 = .next t) ∧
    (emu.WellFormed ∧ emu.cfg.indexWidthFlag = .x ∧ ∃ t, exec .tcs emu = .next t) ∧
    (edgeN8.WellFormed ∧ edgeN8.cfg.indexWidthFlag = .x ∧ ∃ t, exec .tax edgeN8 = .next t) :=
  ⟨⟨by decide, rfl, _, rfl⟩, ⟨by decide, rfl, _, rfl⟩, ⟨by decide, rfl, _, rfl⟩⟩

/-- A store at the top of the space, from a state with the invariant. -/
theorem witness_StepKeepsInvariant :
    let s := { start .m6502 true 0x30 [0x8D, 0xFF, 0xFF] [] with a := 0xFF }
    s.Inv ∧ ∃ t, step s = .next t :=
  ⟨by decide, _, rfl⟩

theorem plain_memory {s : State} (h : s.cfg.memMap = []) {reads writes : Addr → Prop} : s.PlainMemory reads writes :=
  ⟨fun a _ => (plain h a).1, fun a _ => (plain h a).2⟩

/-- No instruction is in a corner outside emulation mode. -/
theorem no_corner_native {s : State} (h : s.e = false) {i : Instr} (r : Refusal) : ¬ OpenCorner s i r :=
  fun hc => by simp [OpenCorner, h] at hc

/-- No corner of an instruction, no refusal for one. -/
theorem no_corner_of {s : State} {i : Instr} (h : cornerOf s i = none) (r : Refusal) : ¬ OpenCorner s i r :=
  fun hc => by simp [OpenCorner, h] at hc

/-- In native mode at the highest operand; in emulation mode with the corners refused, an immediate, and the last
offsets before each corner; a load whose whole memory is ROM. -/
theorem witness_EveryInstructionCompletes :
    ((Instr.staSrIndY 0xFF).avail.allows edge16.cfg.variant = true ∧
      edge16.PlainMemory (fun _ => True) (fun _ => (storeAt edge16 (.staSrIndY 0xFF)).isSome = true) ∧
      ∀ r, ¬ OpenCorner edge16 (.staSrIndY 0xFF) r) ∧
    (emu.cfg.emuDpCorners = .refuse ∧ emu.e = true ∧
      ∀ i ∈ [Instr.ldaImm 0xFF, .staDpInd 0xFE, .ldaDpXInd 0xFF, .staDpIndLong 0xFD, .ldaSr 0x0F, .staSrIndY 0x0E],
        i.avail.allows emu.cfg.variant = true ∧
        emu.PlainMemory (fun _ => True) (fun _ => (storeAt emu i).isSome = true) ∧ ∀ r, ¬ OpenCorner emu i r) ∧
    (let s := { edge16 with cfg := { edge16.cfg with memMap := [⟨0, 0x1000000, .rom⟩] } }
     (Instr.ldaAbs 0xFFFF).avail.allows s.cfg.variant = true ∧
      s.PlainMemory (fun _ => True) (fun _ => (storeAt s (.ldaAbs 0xFFFF)).isSome = true) ∧
      ∀ r, ¬ OpenCorner s (.ldaAbs 0xFFFF) r) := by
  refine ⟨⟨rfl, plain_memory rfl, no_corner_native rfl⟩, ⟨rfl, rfl, ?_⟩, rfl, ⟨fun a _ => ?_, fun a h => nomatch h⟩,
    no_corner_native rfl⟩
  · repeat' first
      | exact List.forall_mem_nil _
      | exact ⟨rfl, plain_memory rfl, no_corner_of (by decide)⟩
      | refine List.forall_mem_cons.2 ⟨?_, ?_⟩
  · have h := a.isLt
    simp [State.readable, State.kindAt, kindIn, regionHolds, show a.toNat < 16777216 from h]

/-- Each reason of R302 is reached, a load refused at a device and a store at ROM. -/
theorem witness_RefusalsAreListed :
    (let s := start .m6502 true 0x30 [0xAA] []
     stops { s with cfg := { s.cfg with interrupts := true } } .asyncEvents) = true ∧
    stops (start .m6502 true 0x30 [0xEA] []) (.opcodeNotInSpec 0xEA) = true ∧
    stops (start .m6502 true 0x30 [0xEB] []) (.opcodeNotAvailable 0xEB .m6502) = true ∧
    stops (start .m65816 true 0x30 [0xB2, 0xFF] []) .emuPointerWrap = true ∧
    stops (start .m65816 true 0x30 [0xA3, 0x01] []) .emuStackRelative = true ∧
    stops (board (start .m6502 true 0x30 [0xAD, 0x00, 0x01] [])) (.notPlainMemory 0x100) = true ∧
    stops (board (start .m6502 true 0x30 [0x85, 0xFF] [])) (.notPlainMemory 0xFF) = true := by decide

theorem witness_AbsentRegistersUnseen : edge8.cfg.variant ≠ .m65816 ∧ edgeC.cfg.variant ≠ .m65816 := by decide

theorem witness_SameOnEightBitProcessors :
    (Instr.ldaDpIndY 0xFF).avail = .all ∧ edge8.cfg.variant = .m6502 := ⟨rfl, rfl⟩

/-- The page-crossing note met and not met, under both values of `LDX_INDEX`. -/
theorem witness_CycleCounts :
    (∃ p ix : Nat, p = (edgeC.byteAt (edgeC.dpa (offset 0xFF))).toNat
        + 256 * (edgeC.byteAt (edgeC.dpa (offset 0xFF + 1))).toNat ∧
      ix = (if edgeC.cfg.ldxIndex = .y then edgeC.y.toNat else edgeC.x.toNat) ∧
      (p + edgeC.y.toNat) / 256 ≠ p / 256 ∧ (0x1200 + ix) / 256 = 0x1200 / 256) ∧
    (let s := { edge16 with cfg := { edge16.cfg with ldxIndex := .x } }
     ∃ ix : Nat, ix = (if s.cfg.ldxIndex = .y then s.y.toNat else s.x.toNat) ∧ (0xFFFF + ix) / 256 ≠ 0xFFFF / 256) :=
  ⟨⟨_, _, rfl, rfl, by decide, by decide⟩, _, rfl, by decide⟩

theorem witness_ResetValues : Variant.m65C02 ≠ .m6502 ∧ Variant.m65816 ≠ .m6502 := by decide

/-! ### Witnesses: launch premises and corners -/

/-- A load and a store, with code that stands at a base other than `PC` and wraps at the end of the bank. -/
theorem witness_LaunchPremisesKept :
    let s := { straddling with pc := 0x8000, dbr := 0x7E }
    s.VariantIs .m65816 ∧ s.ModeIs false false false ∧ s.NoAsyncEvents ∧
    s.PlainMemory (fun a => a.toNat < 2 ^ 24) (fun a => a = 0x7E8000) ∧ s.pc ≠ 0xFFFF ∧
    s.CodeAt 0xFFFF [0xA9, 0x12, 0x34] ∧
    ((∃ t, exec .tax s = .next t) ∧ storeAt s .tax = none) ∧
    (∃ t, exec (.staAbs 0x8000) s = .next t) ∧
    storeAt s (.staAbs 0x8000) = some (.w16, .ok ⟨0x7E8000, 0x7E8001⟩) ∧
    ∀ k < 3, ¬ Touches .w16 ⟨0x7E8000, 0x7E8001⟩ (s.codeAddr 0xFFFF k) :=
  ⟨rfl, by decide, rfl, plain_memory rfl, by decide, by decide, ⟨⟨_, rfl⟩, rfl⟩, ⟨_, rfl⟩, rfl,
    fun k hk => by rcases k with _ | _ | _ | k <;> first | omega | (unfold Touches; decide)⟩

/-- Each corner at its first operand, and the operand before it. -/
theorem witness_CornersRefusedExactly :
    (∀ q ∈ [(Instr.ldaDpInd 0xFF, Refusal.emuPointerWrap), (.staDpIndY 0xFF, .emuPointerWrap),
      (.ldaDpXInd 0x00, .emuPointerWrap), (.staDpIndLong 0xFE, .emuPointerWrap), (.ldaDpIndLongY 0xFF, .emuPointerWrap),
      (.ldaSr 0x10, .emuStackRelative), (.staSrIndY 0x0F, .emuStackRelative)],
      q.1.avail.allows emu.cfg.variant = true ∧ emu.cfg.variant = .m65816 ∧ emu.e = true ∧
      emu.cfg.emuDpCorners = .refuse ∧ cornerOf emu q.1 = some q.2 ∧
      q.2 ∈ [Refusal.emuPointerWrap, .emuStackRelative]) ∧
    ∀ i ∈ [Instr.ldaDpInd 0xFE, .staDpIndY 0x00, .ldaDpXInd 0x01, .staDpIndLong 0xFD, .ldaSr 0x0F, .staSrIndY 0x0E],
      cornerOf emu i = none := by decide

end Sys2Proof.Tests
end

section
/-!
Reads and writes of a datum (R73, R77): when each completes, which number a read gives and which bytes a write
changes. O14 is assembled from these rules.
-/

namespace Sys2Proof.Machine

/-! ### The bytes of a datum -/

@[simp] theorem touches_w8_iff (m : EA) (a : Addr) : Touches .w8 m a ↔ a = m.ea := by
  simp [Touches]

@[simp] theorem touches_w16_iff (m : EA) (a : Addr) : Touches .w16 m a ↔ a = m.ea ∨ a = m.ea1 := by
  simp [Touches]

theorem canRead_w8_iff (s : State) (m : EA) : CanRead s .w8 m ↔ s.readable m.ea = true := by
  simp [CanRead]

theorem canRead_w16_iff (s : State) (m : EA) :
    CanRead s .w16 m ↔ s.readable m.ea = true ∧ s.readable m.ea1 = true := by
  simp [CanRead]

theorem canWrite_w8_iff (s : State) (m : EA) : CanWrite s .w8 m ↔ s.writable m.ea = true := by
  simp [CanWrite]

theorem canWrite_w16_iff (s : State) (m : EA) :
    CanWrite s .w16 m ↔ s.writable m.ea = true ∧ s.writable m.ea1 = true := by
  simp [CanWrite]

/-! ### Reading a datum -/

/-- A read completes exactly on plain memory. -/
theorem exists_readDatum_ok_iff (s : State) (w : Width) (m : EA) :
    (∃ v, readDatum s w m = .ok v) ↔ CanRead s w m := by
  cases w
  case w8 => simp only [readDatum_ok_iff, exists_and_left, exists_eq, and_true, canRead_w8_iff]
  case w16 => simp only [readDatum_ok_iff, exists_and_left, exists_eq, and_true, canRead_w16_iff]

/-- What a read gives is the number that memory holds there, low byte first. -/
theorem readDatum_toNat {s : State} {w : Width} {m : EA} {v : Word} (h : readDatum s w m = .ok v) :
    v.toNat = datumNat s w m := by
  cases w
  case w8 =>
    obtain ⟨-, rfl⟩ := (readDatum_ok_iff s .w8 m v).1 h
    simp [word_toNat, datumNat]
  case w16 =>
    obtain ⟨-, -, rfl⟩ := (readDatum_ok_iff s .w16 m v).1 h
    rw [word_toNat, datumNat]
    omega

/-- At one address the 8-bit datum is the low byte of the 16-bit one. -/
theorem datumNat_w8_eq_mod (s : State) (m : EA) : datumNat s .w8 m = datumNat s .w16 m % 256 := by
  have hlo := (s.byteAt m.ea).isLt
  simp only [datumNat]
  omega

/-! ### Writing a datum -/

/-- A write completes exactly on RAM. -/
theorem exists_writeDatum_ok_iff (s : State) (w : Width) (m : EA) (v : Word) :
    (∃ t, writeDatum s w m v = .ok t) ↔ CanWrite s w m := by
  cases w
  case w8 => simp only [writeDatum_ok_iff, exists_and_left, exists_eq, and_true, canWrite_w8_iff]
  case w16 => simp only [writeDatum_ok_iff, exists_and_left, exists_eq, and_true, canWrite_w16_iff]

/-- A write changes memory only. -/
theorem writeDatum_frame {s t : State} {w : Width} {m : EA} {v : Word} (h : writeDatum s w m v = .ok t) :
    t = { s with mem := t.mem } := by
  cases w
  case w8 =>
    obtain ⟨-, rfl⟩ := (writeDatum_ok_iff s .w8 m v t).1 h
    rfl
  case w16 =>
    obtain ⟨-, -, rfl⟩ := (writeDatum_ok_iff s .w16 m v t).1 h
    rfl

/-- The byte at an address after an 8-bit write. -/
theorem byteAt_of_writeDatum_w8 {s t : State} {m : EA} {v : Word} (h : writeDatum s .w8 m v = .ok t) (a : Addr) :
    t.byteAt a = if m.ea = a then loByte v else s.byteAt a := by
  obtain ⟨-, rfl⟩ := (writeDatum_ok_iff s .w8 m v t).1 h
  exact State.byteAt_write s m.ea a (loByte v)

/-- The byte at an address after a 16-bit write: the high byte is written last, so it stands where the two meet. -/
theorem byteAt_of_writeDatum_w16 {s t : State} {m : EA} {v : Word} (h : writeDatum s .w16 m v = .ok t) (a : Addr) :
    t.byteAt a = if m.ea1 = a then hiByte v else if m.ea = a then loByte v else s.byteAt a := by
  obtain ⟨-, -, rfl⟩ := (writeDatum_ok_iff s .w16 m v t).1 h
  rw [State.byteAt_write { s with mem := s.mem.write m.ea.toNat (loByte v) }, State.byteAt_write]

/-- A write puts the datum's bytes in place, low byte first, and changes no byte outside it. At width 16 the two
addresses have to differ, or the high byte overwrites the low one. -/
theorem writeDatum_storedAt {s t : State} {w : Width} {m : EA} {v : Word} (h : writeDatum s w m v = .ok t)
    (hne : w = .w16 → m.ea ≠ m.ea1) : StoredAt w v.toNat m s t := by
  cases w
  case w8 =>
    have hbyte := byteAt_of_writeDatum_w8 h
    refine ⟨?_, nofun, fun a ha => ?_⟩
    · rw [hbyte, if_pos rfl, loByte_toNat]
    · rw [touches_w8_iff] at ha
      rw [hbyte, if_neg (Ne.symm ha)]
  case w16 =>
    have hbyte := byteAt_of_writeDatum_w16 h
    refine ⟨?_, fun _ => ?_, fun a ha => ?_⟩
    · rw [hbyte, if_neg (hne rfl).symm, if_pos rfl, loByte_toNat]
    · have hv := v.isLt
      rw [hbyte, if_pos rfl, hiByte_toNat]
      omega
    · rw [touches_w16_iff, not_or] at ha
      obtain ⟨hea, hea1⟩ := ha
      rw [hbyte, if_neg (Ne.symm hea1), if_neg (Ne.symm hea)]

/-! ### The statement -/

/-- Settles O14: reads give `datumNat`, writes meet `StoredAt` and change memory only, and the two widths agree on the
low byte because `datumNat` does. -/
theorem littleEndianData : Obligations.LittleEndianData := by
  refine ⟨fun s w m hread => ?_, fun s w m v hwrite hne => ?_, fun s m v v' h16 h8 => ?_⟩
  · obtain ⟨v, hv⟩ := (exists_readDatum_ok_iff s w m).2 hread
    exact ⟨v, hv, readDatum_toNat hv⟩
  · obtain ⟨t, ht⟩ := (exists_writeDatum_ok_iff s w m v).2 hwrite
    exact ⟨t, ht, writeDatum_storedAt ht fun _ => hne, writeDatum_frame ht⟩
  · rw [readDatum_toNat h8, readDatum_toNat h16, datumNat_w8_eq_mod]

end Sys2Proof.Machine
end

section
/-!
The stores (R210): the two bytes of a datum never meet in any mode, so what a store writes stands where its mode says
at either width. O32 is assembled from one rule for all stores and one fact per mode.
-/

namespace Sys2Proof.Machine

/-! ### The two addresses of a datum differ -/

/-- Inside one bank, different offsets are different addresses. -/
theorem State.a24_inj {s : State} {b : Byte} {o o' : Word} (h : s.a24 b o = s.a24 b o') : o = o' := by
  have hn := congrArg BitVec.toNat h
  apply BitVec.eq_of_toNat_eq
  cases hv : s.is65816 with
  | true =>
    rw [s.a24_toNat_65816 hv, s.a24_toNat_65816 hv] at hn
    exact Nat.add_left_cancel hn
  | false =>
    rwa [s.a24_toNat_8bit hv, s.a24_toNat_8bit hv] at hn

theorem State.a24_add_one_ne (s : State) {b : Byte} {o : Word} : s.a24 b (o + 1) ≠ s.a24 b o := by
  intro h
  simpa using State.a24_inj h

/-- `lin(a, 1)` is another address than `a`, also where it wraps (R130). -/
theorem State.lin_one_ne (s : State) (a : Addr) : s.lin a 1 ≠ a := by
  intro h
  have hn := congrArg BitVec.toNat h
  have hone : (1 : Word).toNat = 1 := rfl
  cases hv : s.is65816 with
  | true =>
    rw [s.lin_toNat_65816 hv, hone] at hn
    omega
  | false =>
    rw [s.lin_toNat_8bit hv, hone] at hn
    omega

/-- Consecutive low bytes differ, also where they wrap inside the page. -/
theorem loByte_add_one_ne (v : Word) : loByte (v + 1) ≠ loByte v := by
  intro h
  have hn := congrArg BitVec.toNat h
  have hone : (1 : Word).toNat = 1 := rfl
  rw [loByte_toNat, loByte_toNat, BitVec.toNat_add, hone] at hn
  omega

/-- Consecutive Direct Page offsets are different addresses under both formulas of R131. -/
theorem State.dpa_add_one_ne (s : State) (off : Word) : s.dpa (off + 1) ≠ s.dpa off := by
  intro h
  unfold State.dpa at h
  split at h
  case isTrue =>
    have hlo := congrArg loByte (State.a24_inj h)
    rw [loByte_word, loByte_word] at hlo
    exact loByte_add_one_ne off hlo
  case isFalse =>
    rw [← BitVec.add_assoc] at h
    exact s.a24_add_one_ne h

/-! ### Modes whose two addresses differ -/

/-- The mode never gives a datum whose high byte would fall on its low byte. -/
def BytesApart (mode : State → Except Refusal EA) : Prop :=
  ∀ s m, mode s = .ok m → m.ea ≠ m.ea1

theorem bytesApart_linear (a : State → Addr) : BytesApart fun s => .ok (linear s (a s)) := by
  intro s m h
  obtain rfl := Except.ok.inj h
  exact (s.lin_one_ne (a s)).symm

theorem bytesApart_eaDpOff (off : State → Word) : BytesApart fun s => .ok (eaDpOff (off s) s) := by
  intro s m h
  obtain rfl := Except.ok.inj h
  exact (s.dpa_add_one_ne (off s)).symm

/-- A pointer read followed by a linear datum (R87), the shape of every indirect mode. -/
theorem bytesApart_bind_linear {α : Type} (ptr : State → Except Refusal α) (a : State → α → Addr) :
    BytesApart fun s => ptr s >>= fun p => .ok (linear s (a s p)) := by
  intro s m h
  obtain ⟨p, -, hm⟩ := (bind_ok_iff _ _ _).1 h
  exact bytesApart_linear (a · p) s m hm

theorem BytesApart.guard16 {mode : State → Except Refusal EA} (hmode : BytesApart mode) (off : State → Word) :
    BytesApart fun s => guard16 s (off s) (mode s) := by
  intro s m h
  obtain ⟨-, hm⟩ := (guard16_ok_iff _ _ _ _).1 h
  exact hmode s m hm

theorem BytesApart.guard24 {mode : State → Except Refusal EA} (hmode : BytesApart mode) (off : State → Word) :
    BytesApart fun s => guard24 s (off s) (mode s) := by
  intro s m h
  obtain ⟨-, hm⟩ := (guard24_ok_iff _ _ _ _).1 h
  exact hmode s m hm

theorem BytesApart.guardSr {mode : State → Except Refusal EA} (hmode : BytesApart mode) (sr : Byte) (n : Nat) :
    BytesApart fun s => guardSr s sr n (mode s) := by
  intro s m h
  obtain ⟨-, hm⟩ := (guardSr_ok_iff _ _ _ _ _).1 h
  exact hmode s m hm

theorem bytesApart_eaDpInd (dp : Byte) : BytesApart (eaDpInd dp) :=
  (bytesApart_bind_linear _ fun s p => s.a24 s.dbrReg p).guard16 _

theorem bytesApart_eaDpXInd (dp : Byte) : BytesApart (eaDpXInd dp) :=
  (bytesApart_bind_linear _ fun s p => s.a24 s.dbrReg p).guard16 fun s => offset dp + s.x

theorem bytesApart_eaDpIndY (dp : Byte) : BytesApart (eaDpIndY dp) :=
  (bytesApart_bind_linear _ fun s p => s.lin (s.a24 s.dbrReg p) s.y).guard16 _

theorem bytesApart_eaDpIndLong (dp : Byte) : BytesApart (eaDpIndLong dp) :=
  (bytesApart_bind_linear _ fun _ p => p).guard24 _

theorem bytesApart_eaDpIndLongY (dp : Byte) : BytesApart (eaDpIndLongY dp) :=
  (bytesApart_bind_linear _ fun s p => s.lin p s.y).guard24 _

theorem bytesApart_eaSr (sr : Byte) : BytesApart (eaSr sr) := by
  refine BytesApart.guardSr (fun s m h => ?_) sr 1
  obtain rfl := Except.ok.inj h
  exact s.a24_add_one_ne.symm

theorem bytesApart_eaSrIndY (sr : Byte) : BytesApart (eaSrIndY sr) :=
  (bytesApart_bind_linear _ fun s p => s.lin (s.a24 s.dbrReg p) s.y).guardSr sr 2

/-! ### What a store does -/

/-- Advancing `PC` moves it past `len` bytes, modulo 2^16. -/
theorem pcPast_advance {len : Nat} {s u : State} (h : u.pc = s.pc) : PcPast len s (u.advance len) := by
  simp [PcPast, h]

/-- A store to RAM completes, writes its datum, moves `PC` and leaves the rest. -/
theorem store_completes {s : State} {w : Width} {m : EA} (len : Nat) (v : Word) (hwrite : CanWrite s w m)
    (hne : m.ea ≠ m.ea1) :
    ∃ t, store len w v (.ok m) s = .ok t ∧ StoredAt w v.toNat m s t ∧ PcPast len s t ∧
      t = { s with mem := t.mem, pc := t.pc } := by
  obtain ⟨u, hu⟩ := (exists_writeDatum_ok_iff s w m v).2 hwrite
  have hframe : u = { s with mem := u.mem } := writeDatum_frame hu
  have hpc : u.pc = s.pc := by rw [hframe]
  refine ⟨u.advance len, (store_ok_iff _ _ _ _ _ _).2 ⟨m, u, rfl, hu, rfl⟩, ?_, pcPast_advance hpc, ?_⟩
  · simpa only [StoredAt, State.byteAt_advance] using writeDatum_storedAt hu fun _ => hne
  · rw [hframe]
    rfl

/-- An instruction whose body is a store of `val` at a mode that keeps the bytes apart meets `Stores`. -/
theorem stores_of_body {i : Instr} {len : Nat} {w : State → Width} {val : State → Word}
    {mode : State → Except Refusal EA} (hbody : ∀ s, body i s = store len (w s) (val s) (mode s) s)
    (hmode : BytesApart mode) : Stores i len w (fun s => (val s).toNat) mode := by
  intro s m hav hm hwrite
  obtain ⟨t, ht, hstored, hpc, hframe⟩ := store_completes len (val s) hwrite (hmode s m hm)
  refine ⟨t, (exec_next_iff i s t).2 ⟨hav, ?_⟩, hstored, hpc, hframe⟩
  rw [hbody, hm, ht]

/-- `C` as a number is `B` above `A` (R11). -/
theorem State.c_toNat (s : State) : s.c.toNat = s.b.toNat * 256 + s.a.toNat :=
  word_toNat s.b s.a

/-- An instruction whose body stores `C` at the accumulator width stores `A`, and `B` above it at width 16 (R210). -/
theorem stores_accumulator {i : Instr} {len : Nat} {mode : State → Except Refusal EA}
    (hbody : ∀ s, body i s = store len s.wA s.c (mode s) s) (hmode : BytesApart mode) :
    Stores i len State.wA (fun s => s.b.toNat * 256 + s.a.toNat) mode := by
  simpa only [State.c_toNat] using stores_of_body hbody hmode

/-! ### The statement of STA -/

/-- Settles O32: each of the 14 bodies is a store of `C` (`stores_accumulator`), and each mode keeps the two bytes of
its datum apart. -/
theorem storeAccumulator : Obligations.StoreAccumulator :=
  ⟨fun addr => stores_accumulator (fun _ => rfl) <| bytesApart_linear fun s => s.a24 s.dbrReg addr,
    fun long => stores_accumulator (fun _ => rfl) <| bytesApart_linear fun _ => long,
    fun dp => stores_accumulator (fun _ => rfl) <| bytesApart_eaDpOff fun _ => offset dp,
    fun dp => stores_accumulator (fun _ => rfl) (bytesApart_eaDpInd dp),
    fun dp => stores_accumulator (fun _ => rfl) (bytesApart_eaDpIndLong dp),
    fun addr => stores_accumulator (fun _ => rfl) <| bytesApart_linear fun s => s.lin (s.a24 s.dbrReg addr) s.x,
    fun long => stores_accumulator (fun _ => rfl) <| bytesApart_linear fun s => s.lin long s.x,
    fun addr => stores_accumulator (fun _ => rfl) <| bytesApart_linear fun s => s.lin (s.a24 s.dbrReg addr) s.y,
    fun dp => stores_accumulator (fun _ => rfl) <| bytesApart_eaDpOff fun s => offset dp + s.x,
    fun dp => stores_accumulator (fun _ => rfl) (bytesApart_eaDpXInd dp),
    fun dp => stores_accumulator (fun _ => rfl) (bytesApart_eaDpIndY dp),
    fun dp => stores_accumulator (fun _ => rfl) (bytesApart_eaDpIndLongY dp),
    fun sr => stores_accumulator (fun _ => rfl) (bytesApart_eaSr sr),
    fun sr => stores_accumulator (fun _ => rfl) (bytesApart_eaSrIndY sr)⟩

end Sys2Proof.Machine
end

section
/-!
The store of zero (R250): one rule for a body that stores the constant 0 at the accumulator width, over the store rule
of STA. O35 is assembled from it and the fact that each of the four modes keeps the two bytes of its datum apart.
-/

namespace Sys2Proof.Machine

/-- An instruction whose body stores 0 at the accumulator width writes zero bytes whatever the registers hold
(R250). -/
theorem stores_zero {i : Instr} {len : Nat} {mode : State → Except Refusal EA}
    (hbody : ∀ s, body i s = store len s.wA 0 (mode s) s) (hmode : BytesApart mode) :
    Stores i len State.wA (fun _ => 0) mode :=
  stores_of_body (val := fun _ => 0) hbody hmode

/-- Settles O35: each of the 4 bodies is a store of 0 (`stores_zero`), and each mode keeps the two bytes of its datum
apart. -/
theorem storeZero : Obligations.StoreZero :=
  ⟨fun addr => stores_zero (fun _ => rfl) <| bytesApart_linear fun s => s.a24 s.dbrReg addr,
    fun dp => stores_zero (fun _ => rfl) <| bytesApart_eaDpOff fun _ => offset dp,
    fun addr => stores_zero (fun _ => rfl) <| bytesApart_linear fun s => s.lin (s.a24 s.dbrReg addr) s.x,
    fun dp => stores_zero (fun _ => rfl) <| bytesApart_eaDpOff fun s => offset dp + s.x⟩

end Sys2Proof.Machine
end

section
/-!
The transfers between the accumulator and the index registers (R260, R261, R267, R270): one rule for the row of a
one-byte instruction, one for a body that always completes, and what the flag update and the register writes give as
numbers. O36 and O41 are assembled from these rules.
-/

namespace Sys2Proof.Machine

/-! ### Values at a width, as numbers -/

theorem trunc_toNat (w : Width) (v : Word) : (trunc w v).toNat = v.toNat % 2 ^ bits w := by
  cases w
  case w8 => simp [trunc, word_toNat, loByte_toNat, bits]
  case w16 => exact (Nat.mod_eq_of_lt v.isLt).symm

theorem msbAt_eq_testBit (w : Width) (v : Word) : msbAt w v = v.toNat.testBit (bits w - 1) := by
  cases w <;> exact (BitVec.testBit_toNat v).symm

theorem zeroAt_iff (w : Width) (v : Word) : zeroAt w v = true ↔ v.toNat % 2 ^ bits w = 0 := by
  cases w
  case w8 =>
    rw [zeroAt, beq_iff_eq, ← BitVec.toNat_inj, loByte_toNat]
    rfl
  case w16 =>
    rw [zeroAt, beq_iff_eq, ← BitVec.toNat_inj, bits, Nat.mod_eq_of_lt v.isLt]
    rfl

/-- `A` at width 8, `{B, A}` at width 16 (R11). -/
theorem trunc_c_toNat (s : State) (w : Width) :
    (trunc w s.c).toNat = if w = .w8 then s.a.toNat else s.b.toNat * 256 + s.a.toNat := by
  cases w
  case w8 => simp [trunc, State.c, word_toNat]
  case w16 => exact s.c_toNat

/-! ### Flags and accumulator -/

/-- A state whose `P` is `setNZ` of the old one has flags that follow the value (R14). -/
theorem flagsFollow_of_p_eq {w : Width} {v : Word} {s t : State} (hp : t.p = setNZ w v s.p) :
    FlagsFollow w v.toNat s t := by
  have hbit (j : Nat) := (congrArg (·.getLsbD j) hp).trans (setNZ_getLsbD w v s.p j)
  refine ⟨?_, ?_, fun k h7 h1 => ?_⟩
  · rw [← msbAt_eq_testBit]
    exact hbit 7
  · rw [← zeroAt_iff]
    exact Bool.eq_iff_iff.1 (hbit 1)
  · exact (hbit k).trans (by rw [if_neg h1, if_neg h7])

/-- The flags look at the low `w` bits of the value only. -/
theorem flagsFollow_trunc_iff {w : Width} {v : Word} {s t : State} :
    FlagsFollow w (trunc w v).toNat s t ↔ FlagsFollow w v.toNat s t := by
  have htop : bits w - 1 < bits w := by cases w <;> decide
  simp only [FlagsFollow, trunc_toNat, Nat.testBit_mod_two_pow, htop, decide_true, Bool.true_and, Nat.mod_mod]

/-- A state with the accumulator of `putA` holds the value at the width (R32). -/
theorem accHolds_of_putA {w : Width} {v : Word} {s t : State} (ha : t.a = (s.putA w v).a)
    (hb : t.b = (s.putA w v).b) : AccHolds w v.toNat s t := by
  have halow : t.a.toNat = v.toNat % 256 := by rw [ha, State.putA_a, loByte_toNat]
  cases w
  case w8 => exact ⟨halow, hb⟩
  case w16 =>
    refine ⟨halow, ?_⟩
    have hv := v.isLt
    rw [hb, State.putA_b_w16, hiByte_toNat]
    omega

/-- Writing the accumulator changes `A` and `B` only. -/
theorem State.putA_frame (s : State) (w : Width) (v : Word) :
    s.putA w v = { s with a := (s.putA w v).a, b := (s.putA w v).b } := by
  cases w <;> rfl

/-- In a well-formed state an 8-bit index register has a zero high byte, on every variant and in every mode (R47). -/
theorem State.WellFormed.hiByte_index {s : State} (h : s.WellFormed) (hw : s.wX = .w8) :
    hiByte s.x = 0 ∧ hiByte s.y = 0 := by
  obtain ⟨h8bit, hemu, hnative⟩ := h
  by_cases hv : s.cfg.variant = .m65816
  case neg =>
    obtain ⟨hx, hy, -⟩ := h8bit hv
    exact ⟨hx, hy⟩
  case pos =>
    cases he : s.e with
    | true =>
      obtain ⟨hx, hy, -⟩ := hemu hv he
      exact ⟨hx, hy⟩
    | false =>
      refine hnative hv he ?_
      simpa [State.wX, State.flagX, State.eFlag, State.is65816, hv, he] using hw

/-! ### One-byte instructions whose body completes -/

/-- A row without notes has no cycle beyond its base count (R341). -/
theorem cycles_of_notesOf_none {i : Instr} (h : notesOf i = .none) (s : State) : cycles i s = baseCycles i := by
  simp [cycles, h, notesHasW, notesHasD, notesHasP]

/-- An instruction encoded as its opcode alone, with 2 cycles and no note in its row, is refused where it is not
available and meets `OneByte` (R258). -/
theorem oneByte_of_row {i : Instr} (henc : ∀ c, encode c i = [i.opcode]) (hbase : baseCycles i = 2)
    (hnotes : notesOf i = .none) : OneByte i i.opcode i.avail :=
  ⟨henc, rfl, fun s hav => (exec_refused_iff i s _).2 (.inl ⟨hav, rfl⟩),
    fun s => (cycles_of_notesOf_none hnotes s).trans hbase⟩

/-- An instruction whose body always completes with `f`, which keeps `PC` and memory, then advances by 1. -/
theorem transfers_of_body {i : Instr} {f : State → State} {P : State → State → Prop}
    (hbody : ∀ s, body i s = .ok ((f s).advance 1)) (hpc : ∀ s, (f s).pc = s.pc) (hmem : ∀ s, (f s).mem = s.mem)
    (hP : ∀ s, P s ((f s).advance 1)) : Transfers i P := fun s hav =>
  ⟨(f s).advance 1, (exec_next_iff i s _).2 ⟨hav, hbody s⟩, pcPast_advance (hpc s),
    fun a => congrArg (·.read a.toNat) (hmem s), hP s⟩

/-- A body that moves an index register to the accumulator at `wA`: at width 16 `B` takes the high byte, which is 0
when the index register is 8 bits wide (R259). -/
theorem transfers_index_to_accumulator {i : Instr} (index : State → Word)
    (hbody : ∀ s, body i s = .ok (((s.putA s.wA (index s)).putNZ s.wA (index s)).advance 1))
    (hhigh : ∀ s : State, s.WellFormed → s.wX = .w8 → hiByte (index s) = 0) :
    Transfers i fun s t =>
      AccHolds s.wA (index s).toNat s t ∧ FlagsFollow s.wA (index s).toNat s t ∧
      (s.WellFormed → s.wX = .w8 → s.wA = .w16 → t.b = 0) ∧ t = { s with a := t.a, b := t.b, p := t.p, pc := t.pc } := by
  refine transfers_of_body hbody (fun s => by simp) (fun s => by simp) fun s =>
    ⟨accHolds_of_putA rfl rfl, flagsFollow_of_p_eq (by simp), fun hwf hwX hwA => ?_, ?_⟩
  · rw [State.advance_b, State.putNZ_b, hwA, State.putA_b_w16]
    exact hhigh s hwf hwX
  · rw [State.putA_frame]
    rfl

/-! ### The statements -/

/-- Settles O36: the index takes `C` cut to `wX`, which is `A` at width 8 and `{B, A}` at width 16, and the flags of
the cut value are those of `C` at that width. -/
theorem accumulatorToIndex : Obligations.AccumulatorToIndex :=
  ⟨oneByte_of_row (fun _ => rfl) rfl rfl, oneByte_of_row (fun _ => rfl) rfl rfl,
    transfers_of_body (fun _ => rfl) (fun _ => rfl) (fun _ => rfl) fun s =>
      ⟨trunc_c_toNat s s.wX, flagsFollow_trunc_iff.2 (flagsFollow_of_p_eq rfl), rfl⟩,
    transfers_of_body (fun _ => rfl) (fun _ => rfl) (fun _ => rfl) fun s =>
      ⟨trunc_c_toNat s s.wX, flagsFollow_trunc_iff.2 (flagsFollow_of_p_eq rfl), rfl⟩⟩

/-- Settles O41: both bodies are moves of an index register to the accumulator, and `WellFormed` makes the high byte of
either register 0 at `wX` = 8. -/
theorem indexToAccumulator : Obligations.IndexToAccumulator :=
  ⟨oneByte_of_row (fun _ => rfl) rfl rfl, oneByte_of_row (fun _ => rfl) rfl rfl,
    transfers_index_to_accumulator State.x (fun _ => rfl) fun _ hwf hw => (hwf.hiByte_index hw).1,
    transfers_index_to_accumulator State.y (fun _ => rfl) fun _ hwf hw => (hwf.hiByte_index hw).2⟩

end Sys2Proof.Machine
end

section
/-!
The decoder and the encoder as two readings of one relation: `Shape.Builds` says which operand bytes build which
instruction in each format (R101 to R106). Operand assembly is shown equivalent to it once; the rows of the table and
the instructions are tied to it once each. O1 to O6 are assembled from these rules.
-/

namespace Sys2Proof

/-! ### Bytes of an operand -/

theorem wordBytes_word (hi lo : Byte) : wordBytes (word hi lo) = [lo, hi] := by
  rw [wordBytes, Machine.loByte_word, Machine.hiByte_word]

theorem longBytes_long (b hi lo : Byte) : longBytes (long b hi lo) = [lo, hi, b] := by
  have hlo := lo.isLt
  have hhi := hi.isLt
  have hb := b.isLt
  simp only [longBytes, List.cons.injEq, and_true, ← BitVec.toNat_inj, BitVec.extractLsb'_toNat, Machine.long_toNat,
    Nat.shiftRight_eq_div_pow]
  omega

theorem long_longBytes (v : Addr) :
    long (v.extractLsb' 16 8) (v.extractLsb' 8 8) (v.extractLsb' 0 8) = v := by
  have hv := v.isLt
  apply BitVec.eq_of_toNat_eq
  simp only [Machine.long_toNat, BitVec.extractLsb'_toNat, Nat.shiftRight_eq_div_pow]
  omega

/-- An operand that fits 8 bits is its low byte with a zero high byte (R106). -/
theorem word_zero_loByte_of_fits {k : Word} (h : constFits .w8 k = true) : word 0 (loByte k) = k := by
  have hk : k.toNat < 256 := by simpa [constFits] using h
  apply BitVec.eq_of_toNat_eq
  rw [Machine.word_toNat, Machine.loByte_toNat]
  simp only [BitVec.ofNat_eq_ofNat, BitVec.toNat_ofNat]
  omega

theorem constFits_word_zero (w : Width) (b : Byte) : constFits w (word 0 b) = true := by
  have hb := b.isLt
  cases w
  case w8 => simpa [constFits, Machine.word_toNat] using hb
  case w16 => rfl

/-- The immediate operand read at a width is the one whose bytes stand there, and it fits (R105, R106). -/
theorem takeConst_eq_some_iff (w : Width) (bs rest : List Byte) (k : Word) :
    takeConst w bs = some (k, rest) ↔ constFits w k = true ∧ bs = constBytes w k ++ rest := by
  cases w
  case w8 =>
    constructor
    · intro h
      match bs, h with
      | b :: bs, h =>
        obtain ⟨rfl, rfl⟩ : word 0 b = k ∧ bs = rest := by simpa [takeConst] using h
        exact ⟨constFits_word_zero .w8 b, by simp [constBytes]⟩
    · rintro ⟨hfit, rfl⟩
      simpa [takeConst, constBytes] using word_zero_loByte_of_fits hfit
  case w16 =>
    constructor
    · intro h
      match bs, h with
      | b1 :: b2 :: bs, h =>
        obtain ⟨rfl, rfl⟩ : word b2 b1 = k ∧ bs = rest := by simpa [takeConst] using h
        exact ⟨rfl, by simp [constBytes, wordBytes_word]⟩
    · rintro ⟨-, rfl⟩
      simp [takeConst, constBytes, wordBytes]

/-! ### Formats -/

/-- In the context `c` a format builds the instruction from exactly these operand bytes. -/
inductive Shape.Builds (c : Ctx) : Shape → Instr → List Byte → Prop
  | imp (i : Instr) : Builds c (.imp i) i []
  | b8 (mk : Byte → Instr) (o : Byte) : Builds c (.b8 mk) (mk o) [o]
  | w16 (mk : Word → Instr) (o : Word) : Builds c (.w16 mk) (mk o) (wordBytes o)
  | l24 (mk : Addr → Instr) (o : Addr) : Builds c (.l24 mk) (mk o) (longBytes o)
  | immA (mk : Word → Instr) (k : Word) : constFits c.wA k = true → Builds c (.immA mk) (mk k) (constBytes c.wA k)
  | immX (mk : Word → Instr) (k : Word) : constFits c.wI k = true → Builds c (.immX mk) (mk k) (constBytes c.wI k)

/-- Operand assembly (R106) reads exactly the bytes that build the instruction. -/
theorem Shape.build_eq_some_iff (c : Ctx) (sh : Shape) (bs : List Byte) (i : Instr) (rest : List Byte) :
    sh.build c bs = some (i, rest) ↔ ∃ ops, sh.Builds c i ops ∧ bs = ops ++ rest := by
  constructor
  · intro h
    cases sh with
    | imp j =>
      obtain ⟨rfl, rfl⟩ : j = i ∧ bs = rest := by simpa [Shape.build] using h
      exact ⟨[], .imp j, rfl⟩
    | b8 mk =>
      match bs, h with
      | b1 :: bs, h =>
        obtain ⟨rfl, rfl⟩ : mk b1 = i ∧ bs = rest := by simpa [Shape.build] using h
        exact ⟨_, .b8 mk b1, rfl⟩
    | w16 mk =>
      match bs, h with
      | b1 :: b2 :: bs, h =>
        obtain ⟨rfl, rfl⟩ : mk (word b2 b1) = i ∧ bs = rest := by simpa [Shape.build] using h
        exact ⟨_, .w16 mk _, by simp [wordBytes_word]⟩
    | l24 mk =>
      match bs, h with
      | b1 :: b2 :: b3 :: bs, h =>
        obtain ⟨rfl, rfl⟩ : mk (long b3 b2 b1) = i ∧ bs = rest := by simpa [Shape.build] using h
        exact ⟨_, .l24 mk _, by simp [longBytes_long]⟩
    | immA mk =>
      obtain ⟨⟨k, rest'⟩, hk, heq⟩ := Option.map_eq_some_iff.1 h
      obtain ⟨rfl, rfl⟩ : mk k = i ∧ rest' = rest := by simpa using heq
      obtain ⟨hfit, rfl⟩ := (takeConst_eq_some_iff _ _ _ _).1 hk
      exact ⟨_, .immA mk k hfit, rfl⟩
    | immX mk =>
      obtain ⟨⟨k, rest'⟩, hk, heq⟩ := Option.map_eq_some_iff.1 h
      obtain ⟨rfl, rfl⟩ : mk k = i ∧ rest' = rest := by simpa using heq
      obtain ⟨hfit, rfl⟩ := (takeConst_eq_some_iff _ _ _ _).1 hk
      exact ⟨_, .immX mk k hfit, rfl⟩
  · rintro ⟨ops, hops, rfl⟩
    cases hops with
    | imp => rfl
    | b8 mk o => rfl
    | w16 mk o => simp [Shape.build, wordBytes]
    | l24 mk o => simp [Shape.build, longBytes, long_longBytes]
    | immA mk k hfit => simp [Shape.build, (takeConst_eq_some_iff _ _ rest k).2 ⟨hfit, rfl⟩]
    | immX mk k hfit => simp [Shape.build, (takeConst_eq_some_iff _ _ rest k).2 ⟨hfit, rfl⟩]

/-- Every format builds some instruction. -/
theorem Shape.exists_builds (c : Ctx) (sh : Shape) : ∃ i ops, sh.Builds c i ops := by
  cases sh with
  | imp i => exact ⟨_, _, .imp i⟩
  | b8 mk => exact ⟨_, _, .b8 mk 0⟩
  | w16 mk => exact ⟨_, _, .w16 mk 0⟩
  | l24 mk => exact ⟨_, _, .l24 mk 0⟩
  | immA mk => exact ⟨_, _, .immA mk _ (constFits_word_zero c.wA 0)⟩
  | immX mk => exact ⟨_, _, .immX mk _ (constFits_word_zero c.wI 0)⟩

theorem constBytes_length (w : Width) (k : Word) : (constBytes w k).length + 1 = immLength w := by
  cases w <;> rfl

/-- The operand bytes and the opcode byte make up the length of the format (R101 to R105). -/
theorem Shape.Builds.length {c : Ctx} {sh : Shape} {i : Instr} {ops : List Byte} (h : sh.Builds c i ops) :
    ops.length + 1 = sh.length c := by
  cases h with
  | imp | b8 | w16 | l24 => rfl
  | immA | immX => exact constBytes_length _ _

/-- Operand assembly fails only on a list shorter than the format. -/
theorem Shape.length_lt_of_build_eq_none {c : Ctx} {sh : Shape} {bs : List Byte} (h : sh.build c bs = none) :
    bs.length + 1 < sh.length c := by
  have htake (w : Width) (hw : takeConst w bs = none) : bs.length + 1 < immLength w := by
    match w, bs, hw with
    | .w8, [], _ | .w16, [], _ | .w16, [_], _ => simp [immLength]
  cases sh with
  | imp => simp [Shape.build] at h
  | b8 =>
    match bs, h with
    | [], _ => simp [Shape.length]
  | w16 =>
    match bs, h with
    | [], _ | [_], _ => simp [Shape.length]
  | l24 =>
    match bs, h with
    | [], _ | [_], _ | [_, _], _ => simp [Shape.length]
  | immA => exact htake _ (Option.map_eq_none_iff.1 h)
  | immX => exact htake _ (Option.map_eq_none_iff.1 h)

/-! ### Rows and instructions -/

/-- What a row has to say of the instructions its format builds: their opcode and availability are the row's, their
encoding is the opcode byte before the operand bytes, and the immediate operand is the format's. -/
def Row.Describes (row : Row) : Prop :=
  ∀ c i ops, row.shape.Builds c i ops →
    i.opcode = row.opcode ∧ i.avail = row.avail ∧ encode c i = row.opcode :: ops ∧
      (i.immediate? c).all (fun p => constFits p.1 p.2) = true

theorem table_describes : ∀ row ∈ table, row.Describes := by
  simp only [table, tableLda, tableLdx, tableLdy, tableSta, tableStx, tableSty, tableStz, tableTransfer,
    List.cons_append, List.nil_append, List.forall_mem_cons, List.not_mem_nil, false_imp_iff,
    implies_true, and_true]
  and_intros
  all_goals
    intro c i ops h
    cases h
    exact ⟨rfl, rfl, rfl, by simp [Instr.immediate?, *]⟩

/-- Every instruction whose immediate operand fits is built by the row of its own opcode. -/
theorem exists_row_builds {c : Ctx} {i : Instr} (hfit : (i.immediate? c).all (fun p => constFits p.1 p.2) = true) :
    ∃ row ops, rowOf i.opcode = some row ∧ row.shape.Builds c i ops := by
  cases i with
  | ldaImm k => exact ⟨_, _, rfl, .immA _ k hfit⟩
  | ldxImm k | ldyImm k => exact ⟨_, _, rfl, .immX _ k hfit⟩
  | ldaAbs o | ldaAbsX o | ldaAbsY o | ldxAbs o | ldxAbsY o | ldyAbs o | ldyAbsX o | staAbs o | staAbsX o | staAbsY o
  | stxAbs o | styAbs o | stzAbs o | stzAbsX o => exact ⟨_, _, rfl, .w16 _ o⟩
  | ldaLong o | ldaLongX o | staLong o | staLongX o => exact ⟨_, _, rfl, .l24 _ o⟩
  | ldaDp o | ldaDpInd o | ldaDpIndLong o | ldaDpX o | ldaDpXInd o | ldaDpIndY o | ldaDpIndLongY o | ldaSr o
  | ldaSrIndY o | ldxDp o | ldxDpY o | ldyDp o | ldyDpX o | staDp o | staDpInd o | staDpIndLong o | staDpX o
  | staDpXInd o | staDpIndY o | staDpIndLongY o | staSr o | staSrIndY o | stxDp o | stxDpY o | styDp o | styDpX o
  | stzDp o | stzDpX o => exact ⟨_, _, rfl, .b8 _ o⟩
  | tax | tay | tcd | tcs | tdc | tsc | tsx | txa | txs | txy | tya | tyx | xba => exact ⟨_, _, rfl, .imp _⟩

theorem rowOf_mem {b0 : Byte} {row : Row} (h : rowOf b0 = some row) : row ∈ table :=
  List.mem_of_find?_eq_some h

theorem rowOf_opcode {b0 : Byte} {row : Row} (h : rowOf b0 = some row) : row.opcode = b0 := by
  simpa using List.find?_some h

/-- The row of an instruction's opcode, whatever its operand: it is in the table and has its availability (R111). -/
theorem Instr.exists_row (i : Instr) : ∃ row ∈ table, rowOf i.opcode = some row ∧ row.opcode = i.opcode ∧
    row.avail = i.avail := by
  have hrow : (rowOf i.opcode).map Row.avail = some i.avail := by cases i <;> rfl
  obtain ⟨row, hrow, hav⟩ := Option.map_eq_some_iff.1 hrow
  exact ⟨row, rowOf_mem hrow, hrow, rowOf_opcode hrow, hav⟩

/-- A row's opcode and availability are those of some instruction. -/
theorem exists_instr_of_rowOf {b0 : Byte} {row : Row} (h : rowOf b0 = some row) :
    ∃ i : Instr, i.opcode = b0 ∧ i.avail = row.avail := by
  obtain ⟨i, ops, hbuilds⟩ := row.shape.exists_builds Ctx.atReset
  obtain ⟨hop, hav, -⟩ := table_describes row (rowOf_mem h) _ i ops hbuilds
  exact ⟨i, hop.trans (rowOf_opcode h), hav⟩

/-! ### Decoding -/

theorem lookup_eq_ok_iff (v : Variant) (b0 : Byte) (row : Row) :
    lookup v b0 = .ok row ↔ rowOf b0 = some row ∧ row.avail.allows v = true := by
  unfold lookup
  cases rowOf b0 with
  | none => simp
  | some r =>
    rw [Option.some.injEq]
    by_cases hav : r.avail.allows v = true
    · simp only [hav, if_true, Except.ok.injEq, iff_self_and]
      rintro rfl
      exact hav
    · simp only [hav, Bool.false_eq_true, if_false, reduceCtorEq, false_iff, not_and]
      rintro rfl
      exact hav

theorem lookup_eq_error_iff (v : Variant) (b0 : Byte) (r : Reject) :
    lookup v b0 = .error r ↔ (rowOf b0 = none ∧ r = .opcodeNotInSpec b0) ∨
      ∃ row, rowOf b0 = some row ∧ row.avail.allows v = false ∧ r = .opcodeNotAvailable b0 v := by
  unfold lookup
  split
  · simp_all [eq_comm (a := r)]
  · split <;> simp_all [eq_comm (a := r)]

theorem decode_eq_ok_iff_row (c : Ctx) (bs : List Byte) (x : Instr × List Byte) :
    decode c bs = .ok x ↔
      ∃ b0 tail row, bs = b0 :: tail ∧ lookup c.variant b0 = .ok row ∧ row.shape.build c tail = some x := by
  match bs with
  | [] => simp [decode]
  | b0 :: tail =>
    simp only [decode, List.cons.injEq]
    split
    · simp_all
    · split <;> simp_all

/-- The decoder answers an instruction exactly on its encoding, and only if it is well formed (R107). -/
theorem decode_eq_ok_iff (c : Ctx) (bs : List Byte) (i : Instr) (rest : List Byte) :
    decode c bs = .ok (i, rest) ↔ i.wf c = true ∧ bs = encode c i ++ rest := by
  simp only [decode_eq_ok_iff_row, lookup_eq_ok_iff, Shape.build_eq_some_iff, Instr.wf, Bool.and_eq_true]
  constructor
  · rintro ⟨b0, tail, row, rfl, ⟨hrow, hallows⟩, ops, hbuilds, rfl⟩
    obtain ⟨-, hav, henc, hfit⟩ := table_describes row (rowOf_mem hrow) c i ops hbuilds
    rw [hav, henc, rowOf_opcode hrow]
    exact ⟨⟨hallows, hfit⟩, rfl⟩
  · rintro ⟨⟨hallows, hfit⟩, rfl⟩
    obtain ⟨row, ops, hrow, hbuilds⟩ := exists_row_builds hfit
    obtain ⟨hop, hav, henc, -⟩ := table_describes row (rowOf_mem hrow) c i ops hbuilds
    exact ⟨i.opcode, ops ++ rest, row, by rw [henc, hop]; rfl, ⟨hrow, hav ▸ hallows⟩, ops, hbuilds, rfl⟩

/-- The encoding of a well-formed instruction is its opcode byte and as many bytes after it as its row says. -/
theorem encode_of_wf {c : Ctx} {i : Instr} (hwf : i.wf c = true) :
    ∃ row ops, lookup c.variant i.opcode = .ok row ∧ encode c i = i.opcode :: ops ∧
      ops.length + 1 = row.shape.length c := by
  obtain ⟨hallows, hfit⟩ := Bool.and_eq_true_iff.1 hwf
  obtain ⟨row, ops, hrow, hbuilds⟩ := exists_row_builds hfit
  obtain ⟨hop, hav, henc, -⟩ := table_describes row (rowOf_mem hrow) c i ops hbuilds
  exact ⟨row, ops, (lookup_eq_ok_iff _ _ _).2 ⟨hrow, hav ▸ hallows⟩, hop ▸ henc, hbuilds.length⟩

/-- On a byte whose row the variant has, the decoder fails only for want of bytes. -/
theorem length_lt_of_decode_eq_error {c : Ctx} {b0 : Byte} {row : Row} {bs : List Byte} {r : Reject}
    (hrow : lookup c.variant b0 = .ok row) (h : decode c (b0 :: bs) = .error r) :
    bs.length + 1 < row.shape.length c := by
  refine Shape.length_lt_of_build_eq_none ?_
  simp only [decode, hrow] at h
  split at h
  · assumption
  · cases h

/-- An instruction without an immediate operand is well formed wherever it is available. -/
theorem Instr.wf_of_immediate_none {c : Ctx} {i : Instr} (hfit : i.immediate? c = none)
    (hav : i.avail.allows c.variant = true) : i.wf c = true := by
  simp [Instr.wf, hfit, hav]

/-- An instruction without an immediate operand is decoded from its encoding wherever it is available. -/
theorem decode_append_of_immediate_none {c : Ctx} {i : Instr} {bs rest : List Byte} (henc : encode c i = bs)
    (hfit : i.immediate? c = none) (hav : i.avail.allows c.variant = true) : decode c (bs ++ rest) = .ok (i, rest) :=
  (decode_eq_ok_iff c _ i rest).2 ⟨Instr.wf_of_immediate_none hfit hav, by rw [henc]⟩

/-- The operand of an immediate instruction of width `w`: one byte zero-extended, or two bytes low byte first. -/
theorem decode_immediate {c : Ctx} {mk : Word → Instr} {op : Byte} {w : Width} (b1 b2 : Byte) (rest : List Byte)
    (hav : ∀ k, (mk k).avail = .all) (henc : ∀ k, encode c (mk k) = op :: constBytes w k)
    (hfit : ∀ k, (mk k).immediate? c = some (w, k)) :
    (w = .w8 → ∃ o : Word, o.toNat = b1.toNat ∧ decode c (op :: b1 :: rest) = .ok (mk o, rest)) ∧
    (w = .w16 → ∃ o : Word, o.toNat = b1.toNat + 256 * b2.toNat ∧
      decode c (op :: b1 :: b2 :: rest) = .ok (mk o, rest)) := by
  have hwf (k : Word) (hk : constFits w k = true) : (mk k).wf c = true := by
    simp [Instr.wf, hav, hfit, hk, Avail.allows]
  constructor
  · rintro rfl
    refine ⟨word 0 b1, by simp [Machine.word_toNat], (decode_eq_ok_iff _ _ _ _).2 ⟨hwf _ (constFits_word_zero _ _), ?_⟩⟩
    simp [henc, constBytes]
  · rintro rfl
    refine ⟨word b2 b1, by rw [Machine.word_toNat]; omega, (decode_eq_ok_iff _ _ _ _).2 ⟨hwf _ rfl, ?_⟩⟩
    simp [henc, constBytes, wordBytes_word]

/-! ### The statements -/

/-- Settles O1: the decoder answers exactly on encodings (`decode_eq_ok_iff`). -/
theorem decodeOfEncode : Obligations.DecodeOfEncode := fun c i rest hwf =>
  (decode_eq_ok_iff c _ i rest).2 ⟨hwf, rfl⟩

/-- Settles O2: the other direction of `decode_eq_ok_iff`. -/
theorem encodeOfDecode : Obligations.EncodeOfDecode := fun c bs i rest h =>
  ((decode_eq_ok_iff c bs i rest).1 h).symm

/-- Settles O3: the bytes before `rest` are the encoding of the instruction named, whose operand bytes are those of
`word` and `long`. -/
theorem operandAssembly : Obligations.OperandAssembly := by
  intro c b1 b2 b3 rest
  have hword : (word b2 b1).toNat = b1.toNat + 256 * b2.toNat := by
    rw [Machine.word_toNat]
    omega
  have hlong : (long b3 b2 b1).toNat = b1.toNat + 256 * b2.toNat + 65536 * b3.toNat := by
    rw [Machine.long_toNat]
    omega
  have himm {mk : Word → Instr} {op : Byte} {w : Width} := decode_immediate (c := c) (mk := mk) (op := op) (w := w)
    b1 b2 rest
  simp only [List.forall_mem_cons, List.not_mem_nil, false_imp_iff, implies_true, and_true]
  refine ⟨?implied, ?byte, ?word, ?long, ?immediate⟩
  case implied => and_intros <;> exact decode_append_of_immediate_none (bs := [_]) rfl rfl
  case byte => and_intros <;> exact decode_append_of_immediate_none (bs := [_, b1]) rfl rfl
  case word =>
    and_intros <;> exact fun hav => ⟨_, hword,
      decode_append_of_immediate_none (bs := [_, b1, b2]) (congrArg (_ :: ·) (wordBytes_word b2 b1)) rfl hav⟩
  case long =>
    and_intros <;> exact fun hav => ⟨_, hlong,
      decode_append_of_immediate_none (bs := [_, b1, b2, b3]) (congrArg (_ :: ·) (longBytes_long b3 b2 b1)) rfl hav⟩
  case immediate =>
    exact ⟨himm (fun _ => rfl) (fun _ => rfl) fun _ => rfl, himm (fun _ => rfl) (fun _ => rfl) fun _ => rfl,
      himm (fun _ => rfl) (fun _ => rfl) fun _ => rfl⟩

/-- The bytes of an immediate instruction, opcode included, by its width (R105). -/
theorem cons_constBytes_length (op : Byte) (w : Width) (k : Word) :
    (op :: constBytes w k).length = if w = .w8 then 2 else 3 := by
  cases w <;> rfl

/-- Settles O4: the operand of an immediate is as long as its width; no other encoding reads the context. -/
theorem instructionLengths : Obligations.InstructionLengths := by
  refine ⟨fun s k => ⟨cons_constBytes_length _ _ k, fun hflag => ?_, fun hflag => ?_⟩, fun i c c' hi => ?_⟩
  · have hwI : s.wI = s.wX := by simp [Machine.State.wI, hflag]
    exact hwI ▸ cons_constBytes_length _ _ k
  · have hwI : s.wI = s.wX := by simp [Machine.State.wI, hflag]
    exact hwI ▸ cons_constBytes_length _ _ k
  · cases i with
    | ldaImm | ldxImm | ldyImm => cases hi
    | _ => exact ⟨rfl, by simp [encode, wordBytes, longBytes], by simp [encode, wordBytes, longBytes]⟩

/-- Settles O5: each word is the encoding of its instruction (O1). -/
theorem writtenWordsDecode : Obligations.WrittenWordsDecode := by
  have hdecode {c : Ctx} {i : Instr} (hwf : i.wf c = true) : decode c (encode c i) = .ok (i, []) := by
    simpa using decodeOfEncode c i [] hwf
  exact ⟨hdecode (i := .ldaImm 0x80) rfl, hdecode (i := .ldaImm 0x1280) rfl, hdecode (i := .ldaLong 0x7F1234) rfl,
    hdecode (i := .ldxAbsY 0x1234) rfl, hdecode (i := .ldyDpX 0x20) rfl, hdecode (i := .staSrIndY 0x03) rfl,
    hdecode (i := .stxDpY 0x20) rfl, hdecode (i := .styAbs 0x1234) rfl, hdecode (i := .stzAbsX 0x1234) rfl,
    hdecode (i := .xba) rfl⟩

/-- A fact about availability and opcode holds of every instruction if it holds of the 62 rows. -/
theorem Instr.of_table {p : Avail → Byte → Prop} (h : ∀ row ∈ table, p row.avail row.opcode) (i : Instr) :
    p i.avail i.opcode := by
  obtain ⟨row, hmem, -, hop, hav⟩ := i.exists_row
  exact hav ▸ hop ▸ h row hmem

/-- Settles O6: the three lists are read off the table; the refusal is the availability check of `exec`. -/
theorem availability : Obligations.Availability :=
  ⟨Instr.of_table (p := fun av op => av = .all ↔ op ∈ _) (by decide),
    Instr.of_table (p := fun av op => av = .from65C02 ↔ op ∈ _) (by decide),
    Instr.of_table (p := fun av op => av = .only65816 ↔ op ∈ _) (by decide),
    fun v => by cases v <;> decide,
    fun i s hav => (Machine.exec_refused_iff i s _).2 (.inl ⟨hav, rfl⟩)⟩

end Sys2Proof
end

section
/-!
The fetch (R107) over the decoder's rules: an instruction is fetched exactly where its encoding stands at `PC` and can
be read, and every other fetch is refused for a reason of R302 or R303. O7, O8 and O10 are read off these rules.
-/

namespace Sys2Proof.Machine

/-! ### What is fetched -/

theorem fetchBytes_length {s : State} {k n : Nat} {bs : List Byte} (h : fetchBytes s k n = .ok bs) : bs.length = n := by
  rw [((fetchBytes_ok_iff s k n bs).1 h).2, List.length_map, List.length_range]

theorem fetchBytes_error {s : State} {k n : Nat} {r : Refusal} (h : fetchBytes s k n = .error r) :
    ∃ a, r = .notPlainMemory a ∧ s.readable a = false := by
  induction n generalizing k with
  | zero => simp [fetchBytes] at h
  | succ n ih =>
    rcases (bind_error_iff _ _ _).1 h with hb | ⟨b, -, h⟩
    · obtain ⟨hread, hr⟩ := (readByte_error_iff _ _ _).1 hb
      exact ⟨_, hr, hread⟩
    · rcases (bind_error_iff _ _ _).1 h with hbs | ⟨bs, -, h⟩
      · exact ih hbs
      · cases h

/-- The bytes of an instruction stand at `PC` exactly when the fetch sees its opcode byte and its operand bytes. -/
theorem State.codeAt_cons_iff (s : State) (b0 : Byte) (ops : List Byte) :
    s.CodeAt s.pc (b0 :: ops) ↔
      s.byteAt (s.fetchAddr 0) = b0 ∧ ops = (List.range ops.length).map fun j => s.byteAt (s.fetchAddr (1 + j)) := by
  constructor
  · intro h
    refine ⟨h 0 (Nat.succ_pos _), List.ext_getElem (by simp) fun j hj _ => ?_⟩
    rw [List.getElem_map, List.getElem_range, Nat.add_comm]
    exact (h (j + 1) (Nat.succ_lt_succ hj)).symm
  · rintro ⟨h0, hops⟩ k hk
    cases k with
    | zero => exact h0
    | succ j =>
      have hj : j < ops.length := Nat.lt_of_succ_lt_succ hk
      have hbyte : ops[j] = s.byteAt (s.fetchAddr (1 + j)) := by
        rw [List.getElem_of_eq hops hj, List.getElem_map, List.getElem_range]
      rw [List.getElem_cons_succ, hbyte, Nat.add_comm]
      rfl

theorem fetchInstr_of_interrupts {s : State} (h : s.cfg.interrupts = true) : fetchInstr s = .error .asyncEvents := by
  simp [fetchInstr, h]

theorem fetchInstr_of_unreadable {s : State} (hint : s.NoAsyncEvents) (hread : s.readable (s.fetchAddr 0) = false) :
    fetchInstr s = .error (.notPlainMemory (s.fetchAddr 0)) := by
  have hb := (readByte_error_iff s (s.fetchAddr 0) _).2 ⟨hread, rfl⟩
  simp [fetchInstr, hint, hb]

theorem fetchInstr_of_lookup_error {s : State} {r : Reject} (hint : s.NoAsyncEvents)
    (hread : s.readable (s.fetchAddr 0) = true)
    (hrow : lookup s.cfg.variant (s.byteAt (s.fetchAddr 0)) = .error r) : fetchInstr s = .error (.ofReject r) := by
  have hb := (readByte_ok_iff s (s.fetchAddr 0) _).2 ⟨hread, rfl⟩
  simp [fetchInstr, hint, hb, hrow]

theorem fetchInstr_of_fetchBytes_error {s : State} {row : Row} {r : Refusal} (hint : s.NoAsyncEvents)
    (hread : s.readable (s.fetchAddr 0) = true)
    (hrow : lookup s.cfg.variant (s.byteAt (s.fetchAddr 0)) = .ok row)
    (hbs : fetchBytes s 1 (row.shape.length s.ctx - 1) = .error r) : fetchInstr s = .error r := by
  have hb := (readByte_ok_iff s (s.fetchAddr 0) _).2 ⟨hread, rfl⟩
  simp [fetchInstr, hint, hb, hrow, hbs]

theorem fetchInstr_of_decode_ok {s : State} {row : Row} {bs rest : List Byte} {i : Instr} (hint : s.NoAsyncEvents)
    (hread : s.readable (s.fetchAddr 0) = true)
    (hrow : lookup s.cfg.variant (s.byteAt (s.fetchAddr 0)) = .ok row)
    (hbs : fetchBytes s 1 (row.shape.length s.ctx - 1) = .ok bs)
    (hdecode : decode s.ctx (s.byteAt (s.fetchAddr 0) :: bs) = .ok (i, rest)) : fetchInstr s = .ok i := by
  have hb := (readByte_ok_iff s (s.fetchAddr 0) _).2 ⟨hread, rfl⟩
  simp [fetchInstr, hint, hb, hrow, hbs, hdecode]

/-- An instruction whose encoding stands at `PC` and can be read is fetched (R107). -/
theorem fetchInstr_of_codeAt {s : State} {i : Instr} (hint : s.NoAsyncEvents) (hwf : i.wf s.ctx = true)
    (hcode : s.CodeAt s.pc (encode s.ctx i))
    (hread : ∀ k < (encode s.ctx i).length, s.readable (s.fetchAddr k) = true) : fetchInstr s = .ok i := by
  obtain ⟨row, ops, hrow, henc, hlen⟩ := encode_of_wf hwf
  rw [henc, State.codeAt_cons_iff] at hcode
  obtain ⟨hop, hops⟩ := hcode
  rw [henc] at hread
  refine fetchInstr_of_decode_ok (row := row) (bs := ops) (rest := []) hint (hread 0 (Nat.succ_pos _)) (hop ▸ hrow)
    ?_ ?_
  · rw [← hlen, Nat.add_sub_cancel]
    refine (fetchBytes_ok_iff s 1 _ _).2 ⟨fun j hj => hread (1 + j) ?_, hops⟩
    rw [List.length_cons]
    omega
  · rw [hop, ← henc, ← List.append_nil (encode s.ctx i)]
    exact decodeOfEncode s.ctx i [] hwf

/-- Everything a fetch can answer, with what holds then. -/
inductive Fetches (s : State) : Except Refusal Instr → Prop
  | interrupts (h : s.cfg.interrupts = true) : Fetches s (.error .asyncEvents)
  | unreadable (a : Addr) (h : s.readable a = false) : Fetches s (.error (.notPlainMemory a))
  | rejected (r : Reject) (h : lookup s.cfg.variant (s.byteAt (s.fetchAddr 0)) = .error r) :
      Fetches s (.error (.ofReject r))
  | instr (i : Instr) (hwf : i.wf s.ctx = true) (hcode : s.CodeAt s.pc (encode s.ctx i)) : Fetches s (.ok i)

/-- The bytes read are never too few for the instruction (R107), so a fetch is refused for no other reason. -/
theorem fetches (s : State) : Fetches s (fetchInstr s) := by
  cases hint : s.cfg.interrupts with
  | true => exact fetchInstr_of_interrupts hint ▸ .interrupts hint
  | false =>
  cases hread : s.readable (s.fetchAddr 0) with
  | false => exact fetchInstr_of_unreadable hint hread ▸ .unreadable _ hread
  | true =>
  cases hrow : lookup s.cfg.variant (s.byteAt (s.fetchAddr 0)) with
  | error r => exact fetchInstr_of_lookup_error hint hread hrow ▸ .rejected r hrow
  | ok row =>
  cases hbs : fetchBytes s 1 (row.shape.length s.ctx - 1) with
  | error r =>
    obtain ⟨a, rfl, ha⟩ := fetchBytes_error hbs
    exact fetchInstr_of_fetchBytes_error hint hread hrow hbs ▸ .unreadable a ha
  | ok bs =>
  have hlen := fetchBytes_length hbs
  cases hdecode : decode s.ctx (s.byteAt (s.fetchAddr 0) :: bs) with
  | error r =>
    have hshort := length_lt_of_decode_eq_error (c := s.ctx) hrow hdecode
    omega
  | ok x =>
    obtain ⟨i, rest⟩ := x
    obtain ⟨hwf, hbytes⟩ := (decode_eq_ok_iff _ _ _ _).1 hdecode
    refine fetchInstr_of_decode_ok hint hread hrow hbs hdecode ▸ .instr i hwf ?_
    obtain ⟨row', ops, hrow', henc, hops⟩ := encode_of_wf hwf
    rw [henc, List.cons_append, List.cons.injEq] at hbytes
    obtain ⟨hop, rfl⟩ := hbytes
    obtain rfl : row = row' := Except.ok.inj (hrow.symm.trans (hop ▸ hrow'))
    obtain rfl : rest = [] := by
      rw [List.length_append] at hlen
      exact List.eq_nil_of_length_eq_zero (by omega)
    rw [henc, State.codeAt_cons_iff, ← List.append_nil ops, hlen]
    exact ⟨hop, ((fetchBytes_ok_iff s 1 _ _).1 hbs).2⟩

/-! ### The statements -/

/-- Settles O7: a byte of no row and a row the variant lacks are the two failures of the table lookup. -/
theorem unknownBytesRefused : Obligations.UnknownBytesRefused := by
  intro s hint hread
  have hrefuse {r : Reject} (hrow : lookup s.cfg.variant (s.byteAt (s.fetchAddr 0)) = .error r) :
      step s = .refused (.ofReject r) :=
    step_of_fetch_error s _ (fetchInstr_of_lookup_error hint hread hrow)
  refine ⟨fun hbyte => hrefuse ((lookup_eq_error_iff _ _ _).2 (.inl ⟨?_, rfl⟩)), fun i hop hav => ?_⟩
  · refine List.find?_eq_none.2 fun row hrow heq => hbyte ?_
    rw [← eq_of_beq heq]
    clear heq
    revert row
    decide
  · obtain ⟨row, -, hrow, -, hrowav⟩ := i.exists_row
    rw [hop] at hrow ⊢
    exact hrefuse ((lookup_eq_error_iff _ _ _).2 (.inr ⟨row, hrow, hrowav ▸ hav, rfl⟩))

/-- Settles O8: the instruction is fetched (`fetchInstr_of_codeAt`), and a step executes what is fetched. -/
theorem stepRunsDecoded : Obligations.StepRunsDecoded := fun s i hint hwf hcode hread =>
  step_of_fetch s i (fetchInstr_of_codeAt hint hwf hcode hread)

/-- Settles O10: the fetch refuses before it reads. -/
theorem interruptsRefused : Obligations.InterruptsRefused := fun s h =>
  step_of_fetch_error s _ (fetchInstr_of_interrupts h)

end Sys2Proof.Machine
end

section
/-!
What an instruction's body can answer, said once for all 62: its shape, the state it leaves when it completes
(`Effect`) and the reasons it is refused for. Every statement about the whole machine is a split on these cases.
-/

namespace Sys2Proof.Machine

/-! ### Why a mode is refused -/

/-- A mode of the instruction `i` is refused for the open corner of R151 that `i` stands in, and otherwise only for an
address that cannot be read. -/
structure ModeRefusals (s : State) (i : Instr) (mode : Except Refusal EA) : Prop where
  corner : ∀ r, OpenCorner s i r → mode = .error r
  only : ∀ r, mode = .error r → OpenCorner s i r ∨ ∃ a, r = .notPlainMemory a ∧ s.readable a = false

theorem openCorner_iff {s : State} {i : Instr} {r : Refusal} :
    OpenCorner s i r ↔ s.cornersRefused = true ∧ cornerOf s i = some r := by
  rw [State.cornersRefused_iff, and_assoc, and_assoc]
  rfl

theorem not_openCorner_of_none {s : State} {i : Instr} (h : cornerOf s i = none) (r : Refusal) :
    ¬ OpenCorner s i r := by
  rw [openCorner_iff, h]
  rintro ⟨-, ⟨⟩⟩

theorem modeRefusals_ok {s : State} {i : Instr} (h : cornerOf s i = none) (m : EA) : ModeRefusals s i (.ok m) :=
  ⟨fun r hr => absurd hr (not_openCorner_of_none h r), nofun⟩

/-- The shape of the three guards of R151. -/
theorem modeRefusals_guard {s : State} {i : Instr} {cond : Bool} {r0 : Refusal} {k : Except Refusal EA}
    (hcorner : s.cfg.variant = .m65816 → cornerOf s i = if cond then some r0 else none)
    (hk : ∀ r, k = .error r → ∃ a, r = .notPlainMemory a ∧ s.readable a = false) :
    ModeRefusals s i (if s.cornersRefused && cond then .error r0 else k) := by
  have hopen (r : Refusal) : OpenCorner s i r ↔ (s.cornersRefused && cond) = true ∧ r0 = r := by
    rw [openCorner_iff, Bool.and_eq_true, and_assoc]
    refine and_congr_right fun href => ?_
    rw [hcorner ((s.cornersRefused_iff).1 href).1]
    cases cond <;> simp
  refine ⟨fun r hr => ?_, fun r hr => ?_⟩
  · obtain ⟨hcond, rfl⟩ := (hopen r).1 hr
    rw [if_pos hcond]
  · split at hr
    case isTrue hcond => exact .inl ((hopen r).2 ⟨hcond, Except.error.inj hr⟩)
    case isFalse => exact .inr (hk r hr)

/-! ### The pointer reads behind the guards -/

theorem ptr16_bind_error {s : State} {a0 a1 : Addr} {f : Word → EA} {r : Refusal}
    (h : (ptr16 s a0 a1 >>= fun p => .ok (f p)) = .error r) : ∃ a, r = .notPlainMemory a ∧ s.readable a = false := by
  rcases (bind_error_iff _ _ _).1 h with h | ⟨p, -, ⟨⟩⟩
  rcases (ptr16_error_iff _ _ _ _).1 h with ⟨hread, hr⟩ | ⟨-, hread, hr⟩ <;> exact ⟨_, hr, hread⟩

theorem ptr24_bind_error {s : State} {a0 a1 a2 : Addr} {f : Addr → EA} {r : Refusal}
    (h : (ptr24 s a0 a1 a2 >>= fun p => .ok (f p)) = .error r) :
    ∃ a, r = .notPlainMemory a ∧ s.readable a = false := by
  rcases (bind_error_iff _ _ _).1 h with h | ⟨p, -, ⟨⟩⟩
  rcases (ptr24_error_iff _ _ _ _ _).1 h with ⟨hread, hr⟩ | ⟨-, hread, hr⟩ | ⟨-, -, hread, hr⟩ <;>
    exact ⟨_, hr, hread⟩

/-- A Direct Page offset as a number (R106). -/
theorem offset_toNat (o : Byte) : (offset o).toNat = o.toNat := by
  have ho := o.isLt
  rw [offset, BitVec.toNat_setWidth]
  omega

section
variable {s : State} {i : Instr} {o : Byte}

theorem modeRefusals_eaDpInd
    (h : cornerOf s i = if (s.d.toNat + o.toNat) % 256 = 0xFF then some .emuPointerWrap else none) :
    ModeRefusals s i (eaDpInd o s) := by
  refine modeRefusals_guard (fun hv => ?_) fun _ => ptr16_bind_error
  simp only [h, State.straddles16_iff hv, offset_toNat]

theorem modeRefusals_eaDpIndY
    (h : cornerOf s i = if (s.d.toNat + o.toNat) % 256 = 0xFF then some .emuPointerWrap else none) :
    ModeRefusals s i (eaDpIndY o s) := by
  refine modeRefusals_guard (fun hv => ?_) fun _ => ptr16_bind_error
  simp only [h, State.straddles16_iff hv, offset_toNat]

theorem modeRefusals_eaDpXInd
    (h : cornerOf s i = if (s.d.toNat + o.toNat + s.x.toNat) % 256 = 0xFF then some .emuPointerWrap else none) :
    ModeRefusals s i (eaDpXInd o s) := by
  refine modeRefusals_guard (fun hv => ?_) fun _ => ptr16_bind_error
  have hsum : (s.d.toNat + (offset o + s.x).toNat) % 256 = (s.d.toNat + o.toNat + s.x.toNat) % 256 := by
    rw [BitVec.toNat_add, offset_toNat]
    omega
  simp only [h, State.straddles16_iff hv, hsum]

theorem modeRefusals_eaDpIndLong
    (h : cornerOf s i = if 0xFE ≤ (s.d.toNat + o.toNat) % 256 then some .emuPointerWrap else none) :
    ModeRefusals s i (eaDpIndLong o s) := by
  refine modeRefusals_guard (fun hv => ?_) fun _ => ptr24_bind_error
  simp only [h, State.straddles24_iff hv, offset_toNat]

theorem modeRefusals_eaDpIndLongY
    (h : cornerOf s i = if 0xFE ≤ (s.d.toNat + o.toNat) % 256 then some .emuPointerWrap else none) :
    ModeRefusals s i (eaDpIndLongY o s) := by
  refine modeRefusals_guard (fun hv => ?_) fun _ => ptr24_bind_error
  simp only [h, State.straddles24_iff hv, offset_toNat]

theorem modeRefusals_eaSr
    (h : cornerOf s i = if 0xFF < s.s.toNat % 256 + o.toNat then some .emuStackRelative else none) :
    ModeRefusals s i (eaSr o s) := by
  refine modeRefusals_guard (fun _ => ?_) nofun
  simp only [h, State.leavesPage1_iff, Nat.sub_self, Nat.add_zero]

theorem modeRefusals_eaSrIndY
    (h : cornerOf s i = if 0xFF < s.s.toNat % 256 + o.toNat + 1 then some .emuStackRelative else none) :
    ModeRefusals s i (eaSrIndY o s) := by
  refine modeRefusals_guard (fun _ => ?_) fun _ => ptr16_bind_error
  simp only [h, State.leavesPage1_iff, Nat.add_one_sub_one]

end

/-! ### What a completed instruction has done -/

/-- How many bytes an instruction has in the context of a state. -/
abbrev State.len (s : State) (i : Instr) : Nat := (encode s.ctx i).length

/-- What the instruction `i` leaves of the state `s` when it completes: a register written with its flags, a datum
stored, or one of the six transfers that are neither. -/
inductive Effect (s : State) : Instr → State → Prop
  | accumulator {i : Instr} (w : Width) (v : Word) (hstore : storeAt s i = none) :
      Effect s i (((s.putA w v).putNZ w v).advance (s.len i))
  | indexX {i : Instr} (w : Width) (v : Word) (hstore : storeAt s i = none) (hw : w = s.wI ∨ w = s.wX) :
      Effect s i (((s.putX w v).putNZ w v).advance (s.len i))
  | indexY {i : Instr} (w : Width) (v : Word) (hstore : storeAt s i = none) (hw : w = s.wI ∨ w = s.wX) :
      Effect s i (((s.putY w v).putNZ w v).advance (s.len i))
  | stored {i : Instr} (w : Width) (v : Word) (m : EA) (u : State) (hstore : storeAt s i = some (w, .ok m))
      (hwrite : writeDatum s w m v = .ok u) : Effect s i (u.advance (s.len i))
  | tcd : Effect s .tcd ((({ s with d := s.c } : State).putNZ .w16 s.c).advance (s.len .tcd))
  | tcs : Effect s .tcs
      (({ s with s := if s.eFlag && s.cfg.emuStackPage then word 0x01 s.a else s.c } : State).advance (s.len .tcs))
  | txs : Effect s .txs (({ s with s := txsValue s } : State).advance (s.len .txs))
  | txy : Effect s .txy ((({ s with y := s.x } : State).putNZ s.wX s.x).advance (s.len .txy))
  | tyx : Effect s .tyx ((({ s with x := s.y } : State).putNZ s.wX s.y).advance (s.len .tyx))
  | xba : Effect s .xba ((({ s with a := s.b, b := s.a } : State).putNZ .w8 (word 0 s.b)).advance (s.len .xba))

/-! ### The shape of a body -/

/-- The shape of an instruction's body: a load or a store through a mode with the refusals of R151, or a body without a
data access, which always completes. -/
inductive BodyShape (s : State) (i : Instr) : Except Refusal State → Prop
  | loadA (mode : Except Refusal EA) (hmode : ModeRefusals s i mode) (hstore : storeAt s i = none) :
      BodyShape s i (loadA (s.len i) mode s)
  | loadX (mode : Except Refusal EA) (hmode : ModeRefusals s i mode) (hstore : storeAt s i = none) :
      BodyShape s i (loadX (s.len i) mode s)
  | loadY (mode : Except Refusal EA) (hmode : ModeRefusals s i mode) (hstore : storeAt s i = none) :
      BodyShape s i (loadY (s.len i) mode s)
  | store (w : Width) (v : Word) (mode : Except Refusal EA) (hmode : ModeRefusals s i mode)
      (hstore : storeAt s i = some (w, mode)) : BodyShape s i (store (s.len i) w v mode s)
  | noAccess (t : State) (hcorner : cornerOf s i = none) (heffect : Effect s i t) : BodyShape s i (.ok t)

theorem immLength_eq_constBytes_length (op : Byte) (w : Width) (k : Word) :
    immLength w = (op :: constBytes w k).length := by
  cases w <;> rfl

theorem bodyShape (i : Instr) (s : State) : BodyShape s i (body i s) := by
  cases i with
  | ldaImm k =>
    refine .noAccess _ rfl ?_
    rw [loadImmA, immLength_eq_constBytes_length 0xA9 s.wA k]
    exact .accumulator _ _ rfl
  | ldxImm k =>
    refine .noAccess _ rfl ?_
    rw [loadImmX, immLength_eq_constBytes_length 0xA2 s.wI k]
    exact .indexX _ _ rfl (.inl rfl)
  | ldyImm k =>
    refine .noAccess _ rfl ?_
    rw [loadImmY, immLength_eq_constBytes_length 0xA0 s.wI k]
    exact .indexY _ _ rfl (.inl rfl)
  | ldaAbs | ldaLong | ldaDp | ldaAbsX | ldaLongX | ldaAbsY | ldaDpX => exact .loadA _ (modeRefusals_ok rfl _) rfl
  | ldaDpInd => exact .loadA _ (modeRefusals_eaDpInd rfl) rfl
  | ldaDpXInd => exact .loadA _ (modeRefusals_eaDpXInd rfl) rfl
  | ldaDpIndY => exact .loadA _ (modeRefusals_eaDpIndY rfl) rfl
  | ldaDpIndLong => exact .loadA _ (modeRefusals_eaDpIndLong rfl) rfl
  | ldaDpIndLongY => exact .loadA _ (modeRefusals_eaDpIndLongY rfl) rfl
  | ldaSr => exact .loadA _ (modeRefusals_eaSr rfl) rfl
  | ldaSrIndY => exact .loadA _ (modeRefusals_eaSrIndY rfl) rfl
  | ldxAbs | ldxDp | ldxAbsY | ldxDpY => exact .loadX _ (modeRefusals_ok rfl _) rfl
  | ldyAbs | ldyDp | ldyAbsX | ldyDpX => exact .loadY _ (modeRefusals_ok rfl _) rfl
  | staAbs | staLong | staDp | staAbsX | staLongX | staAbsY | staDpX | stxAbs | stxDp | stxDpY | styAbs | styDp
  | styDpX | stzAbs | stzDp | stzAbsX | stzDpX => exact .store _ _ _ (modeRefusals_ok rfl _) rfl
  | staDpInd => exact .store _ _ _ (modeRefusals_eaDpInd rfl) rfl
  | staDpXInd => exact .store _ _ _ (modeRefusals_eaDpXInd rfl) rfl
  | staDpIndY => exact .store _ _ _ (modeRefusals_eaDpIndY rfl) rfl
  | staDpIndLong => exact .store _ _ _ (modeRefusals_eaDpIndLong rfl) rfl
  | staDpIndLongY => exact .store _ _ _ (modeRefusals_eaDpIndLongY rfl) rfl
  | staSr => exact .store _ _ _ (modeRefusals_eaSr rfl) rfl
  | staSrIndY => exact .store _ _ _ (modeRefusals_eaSrIndY rfl) rfl
  | tax | tsx => exact .noAccess _ rfl (.indexX _ _ rfl (.inr rfl))
  | tay => exact .noAccess _ rfl (.indexY _ _ rfl (.inr rfl))
  | tdc | tsc => exact .noAccess _ rfl (.accumulator .w16 _ rfl)
  | txa | tya => exact .noAccess _ rfl (.accumulator _ _ rfl)
  | tcd => exact .noAccess _ rfl .tcd
  | tcs => exact .noAccess _ rfl .tcs
  | txs => exact .noAccess _ rfl .txs
  | txy => exact .noAccess _ rfl .txy
  | tyx => exact .noAccess _ rfl .tyx
  | xba => exact .noAccess _ rfl .xba

theorem BodyShape.effect {s t : State} {i : Instr} {b : Except Refusal State} (hb : BodyShape s i b) (h : b = .ok t) :
    Effect s i t := by
  cases hb with
  | loadA mode _ hstore =>
    obtain ⟨m, v, -, -, rfl⟩ := (loadA_ok_iff _ _ _ _).1 h
    exact .accumulator _ v hstore
  | loadX mode _ hstore =>
    obtain ⟨m, v, -, -, rfl⟩ := (loadX_ok_iff _ _ _ _).1 h
    exact .indexX _ v hstore (.inl rfl)
  | loadY mode _ hstore =>
    obtain ⟨m, v, -, -, rfl⟩ := (loadY_ok_iff _ _ _ _).1 h
    exact .indexY _ v hstore (.inl rfl)
  | store w v mode _ hstore =>
    obtain ⟨m, u, rfl, hu, rfl⟩ := (store_ok_iff _ _ _ _ _ _).1 h
    exact .stored w v m u hstore hu
  | noAccess t' _ heffect =>
    obtain rfl := Except.ok.inj h
    exact heffect

/-- A body whose instruction stands in an open corner of R151 is refused for it. -/
theorem BodyShape.error_of_openCorner {s : State} {i : Instr} {b : Except Refusal State} {r : Refusal}
    (hb : BodyShape s i b) (h : OpenCorner s i r) : b = .error r := by
  cases hb with
  | loadA mode hmode => exact (loadA_error_iff _ _ _ _).2 (.inl (hmode.corner r h))
  | loadX mode hmode => exact (loadX_error_iff _ _ _ _).2 (.inl (hmode.corner r h))
  | loadY mode hmode => exact (loadY_error_iff _ _ _ _).2 (.inl (hmode.corner r h))
  | store w v mode hmode => exact (store_error_iff _ _ _ _ _ _).2 (.inl (hmode.corner r h))
  | noAccess t hcorner => exact absurd h (not_openCorner_of_none hcorner r)

theorem readDatum_error {s : State} {w : Width} {m : EA} {r : Refusal} (h : readDatum s w m = .error r) :
    ∃ a, r = .notPlainMemory a ∧ s.readable a = false := by
  rcases (readDatum_error_iff _ _ _ _).1 h with ⟨hread, hr⟩ | ⟨-, -, hread, hr⟩ <;> exact ⟨_, hr, hread⟩

theorem writeDatum_error {s : State} {w : Width} {m : EA} {v : Word} {r : Refusal} (h : writeDatum s w m v = .error r) :
    ∃ a, Touches w m a ∧ r = .notPlainMemory a ∧ s.writable a = false := by
  rcases (writeDatum_error_iff _ _ _ _ _).1 h with ⟨hwrite, hr⟩ | ⟨hw, -, hwrite, hr⟩
  · exact ⟨_, .inl rfl, hr, hwrite⟩
  · exact ⟨_, .inr ⟨hw, rfl⟩, hr, hwrite⟩

/-- A body is refused only for an open corner, an address that cannot be read, or a byte of a store's own datum that
cannot be written. -/
theorem BodyShape.error_cases {s : State} {i : Instr} {b : Except Refusal State} {r : Refusal}
    (hb : BodyShape s i b) (h : b = .error r) :
    OpenCorner s i r ∨ (∃ a, r = .notPlainMemory a ∧ s.readable a = false) ∨
      ∃ w m a, storeAt s i = some (w, .ok m) ∧ Touches w m a ∧ r = .notPlainMemory a ∧ s.writable a = false := by
  have hload {mode : Except Refusal EA} {w : Width} (hmode : ModeRefusals s i mode)
      (h : mode = .error r ∨ ∃ m, mode = .ok m ∧ readDatum s w m = .error r) :
      OpenCorner s i r ∨ ∃ a, r = .notPlainMemory a ∧ s.readable a = false := by
    rcases h with h | ⟨m, -, h⟩
    · exact hmode.only r h
    · exact .inr (readDatum_error h)
  cases hb with
  | loadA mode hmode => exact (hload hmode ((loadA_error_iff _ _ _ _).1 h)).imp_right .inl
  | loadX mode hmode => exact (hload hmode ((loadX_error_iff _ _ _ _).1 h)).imp_right .inl
  | loadY mode hmode => exact (hload hmode ((loadY_error_iff _ _ _ _).1 h)).imp_right .inl
  | store w v mode hmode hstore =>
    rcases (store_error_iff _ _ _ _ _ _).1 h with herr | ⟨m, rfl, herr⟩
    · exact (hmode.only r herr).imp_right .inl
    · obtain ⟨a, htouch, hr, hwrite⟩ := writeDatum_error herr
      exact .inr (.inr ⟨w, m, a, hstore, htouch, hr, hwrite⟩)
  | noAccess t => cases h

/-! ### Execution -/

theorem effect_of_exec {i : Instr} {s t : State} (h : exec i s = .next t) : Effect s i t :=
  (bodyShape i s).effect ((exec_next_iff i s t).1 h).2

theorem allows_of_exec {i : Instr} {s t : State} (h : exec i s = .next t) : i.avail.allows s.cfg.variant = true :=
  ((exec_next_iff i s t).1 h).1

/-- An available instruction completes or is refused by its body. -/
theorem exec_of_allows {i : Instr} {s : State} (hav : i.avail.allows s.cfg.variant = true) :
    (∃ t, exec i s = .next t) ∨ ∃ r, exec i s = .refused r ∧ body i s = .error r := by
  cases hb : body i s with
  | ok t => exact .inl ⟨t, (exec_next_iff i s t).2 ⟨hav, hb⟩⟩
  | error r => exact .inr ⟨r, (exec_refused_iff i s r).2 (.inr ⟨hav, hb⟩), rfl⟩

/-- An available instruction is refused exactly when its body is. -/
theorem exec_refused_iff_body {i : Instr} {s : State} {r : Refusal} (hav : i.avail.allows s.cfg.variant = true) :
    exec i s = .refused r ↔ body i s = .error r := by
  simp [exec_refused_iff, hav]

/-! ### The statements about refusals -/

/-- Settles O51: of the reasons a body can be refused for, the hypotheses exclude each one. -/
theorem everyInstructionCompletes : Obligations.EveryInstructionCompletes := by
  intro i s hav hplain hcorner
  obtain ⟨hreads, hwrites⟩ := hplain
  rcases exec_of_allows hav with hnext | ⟨r, -, hbody⟩
  · exact hnext
  · rcases (bodyShape i s).error_cases hbody with h | ⟨a, -, ha⟩ | ⟨w, m, a, hstore, -, -, ha⟩
    · exact absurd h (hcorner r)
    · simp [hreads a trivial] at ha
    · simp [hwrites a (by simp [hstore])] at ha

/-- Settles O58: a refusal for a reason of R151 is no refusal for memory, so it comes from an open corner. -/
theorem cornersRefusedExactly : Obligations.CornersRefusedExactly := by
  intro i s hav r hr
  rw [exec_refused_iff_body hav]
  refine ⟨fun hbody => ?_, (bodyShape i s).error_of_openCorner⟩
  have hmem (a : Addr) : r ≠ .notPlainMemory a := by
    rintro rfl
    simp at hr
  rcases (bodyShape i s).error_cases hbody with h | ⟨a, ha, -⟩ | ⟨w, m, a, -, -, ha, -⟩
  · exact h
  · exact absurd ha (hmem a)
  · exact absurd ha (hmem a)

/-- Settles O52: the fetch is refused as `fetches` says; a fetched instruction is well formed, hence available, and its
body is refused as `BodyShape.error_cases` says. -/
theorem refusalsAreListed : Obligations.RefusalsAreListed := by
  intro s r h
  have hfetch := fetches s
  cases hf : fetchInstr s with
  | error r' =>
    obtain rfl : r' = r := by simpa [step_of_fetch_error s r' hf] using h
    rw [hf] at hfetch
    cases hfetch with
    | interrupts hint => exact .inl ⟨rfl, hint⟩
    | unreadable a ha => exact .inr (.inr (.inr (.inr (.inl ⟨a, rfl, ha⟩))))
    | rejected r hrow =>
      rcases (lookup_eq_error_iff _ _ _).1 hrow with ⟨hnone, rfl⟩ | ⟨row, hsome, hav, rfl⟩
      · refine .inr (.inl ⟨rfl, fun i hop => ?_⟩)
        obtain ⟨row, -, hsome, -⟩ := i.exists_row
        simp [hop, hnone] at hsome
      · obtain ⟨i, hop, hiav⟩ := exists_instr_of_rowOf hsome
        exact .inr (.inr (.inl ⟨rfl, i, hop, hiav ▸ hav⟩))
  | ok i =>
    rw [step_of_fetch s i hf] at h
    rw [hf] at hfetch
    cases hfetch with
    | instr _ hwf hcode =>
      have hbody := (exec_refused_iff_body (Bool.and_eq_true_iff.1 hwf).1).1 h
      rcases (bodyShape i s).error_cases hbody with hopen | hread | ⟨w, m, a, hstore, htouch, hr, hwrite⟩
      · exact .inr (.inr (.inr (.inl ⟨i, hwf, hcode, hopen⟩)))
      · exact .inr (.inr (.inr (.inr (.inl hread))))
      · exact .inr (.inr (.inr (.inr (.inr ⟨i, w, m, a, hwf, hcode, hstore, htouch, hr, hwrite⟩))))

end Sys2Proof.Machine
end

section
/-!
What every completed instruction keeps, each fact read off the cases of `Effect`: the registers no instruction writes,
the flags but n and z, memory outside a store's datum, well-formedness and the invariant.
-/

namespace Sys2Proof.Machine

/-! ### Registers, flags and `PC` -/

theorem writeDatum_mem_only {s u : State} {w : Width} {m : EA} {v : Word} (h : writeDatum s w m v = .ok u) :
    ∃ mem, u = { s with mem := mem } :=
  ⟨u.mem, writeDatum_frame h⟩

/-- What no instruction changes, and how far `PC` moves. -/
theorem Effect.frame {s t : State} {i : Instr} (h : Effect s i t) :
    t.dbr = s.dbr ∧ t.pbr = s.pbr ∧ t.e = s.e ∧ t.cfg = s.cfg ∧ t.pc = s.pc + BitVec.ofNat 16 (s.len i) := by
  cases h with
  | stored w v m u _ hwrite =>
    obtain ⟨mem, rfl⟩ := writeDatum_mem_only hwrite
    exact ⟨rfl, rfl, rfl, rfl, rfl⟩
  | _ => simp

/-- Every flag but n and z is kept (R42, R43). -/
theorem Effect.flags {s t : State} {i : Instr} (h : Effect s i t) (k : Nat) (h7 : k ≠ 7) (h1 : k ≠ 1) :
    t.p.getLsbD k = s.p.getLsbD k := by
  cases h with
  | stored w v m u _ hwrite =>
    obtain ⟨mem, rfl⟩ := writeDatum_mem_only hwrite
    rfl
  | _ => simp [setNZ_getLsbD, h7, h1]

theorem Effect.ctx {s t : State} {i : Instr} (h : Effect s i t) : t.ctx = s.ctx :=
  have ⟨_, _, he, hcfg, _⟩ := h.frame
  State.ctx_congr s t hcfg he (h.flags bitM (by decide) (by decide)) (h.flags bitX (by decide) (by decide))

/-- Only TCD writes `D`. -/
theorem Effect.d {s t : State} {i : Instr} (h : Effect s i t) (hi : i ≠ .tcd) : t.d = s.d := by
  cases h with
  | stored w v m u _ hwrite =>
    obtain ⟨mem, rfl⟩ := writeDatum_mem_only hwrite
    rfl
  | tcd => exact absurd rfl hi
  | _ => simp

/-- Only TCS and TXS write `S`. -/
theorem Effect.s {s t : State} {i : Instr} (h : Effect s i t) (htcs : i ≠ .tcs) (htxs : i ≠ .txs) : t.s = s.s := by
  cases h with
  | stored w v m u _ hwrite =>
    obtain ⟨mem, rfl⟩ := writeDatum_mem_only hwrite
    rfl
  | tcs => exact absurd rfl htcs
  | txs => exact absurd rfl htxs
  | _ => simp

/-! ### Memory -/

/-- An instruction that stores nothing keeps memory as it is. -/
theorem Effect.mem {s t : State} {i : Instr} (h : Effect s i t) (hi : storeAt s i = none) : t.mem = s.mem := by
  cases h with
  | stored w v m u hstore => simp [hi] at hstore
  | _ => simp

/-- A store changes memory and `PC` only. -/
theorem Effect.store_frame {s t : State} {i : Instr} (h : Effect s i t) (hi : (storeAt s i).isSome = true) :
    t = { s with mem := t.mem, pc := t.pc } := by
  cases h with
  | stored w v m u _ hwrite =>
    obtain ⟨mem, rfl⟩ := writeDatum_mem_only hwrite
    rfl
  | accumulator _ _ hstore | indexX _ _ hstore | indexY _ _ hstore => simp [hstore] at hi
  | tcd | tcs | txs | txy | tyx | xba => cases hi

/-- No byte outside the datum of a store changes (R76). -/
theorem byteAt_of_writeDatum {s u : State} {w : Width} {m : EA} {v : Word} (h : writeDatum s w m v = .ok u) {a : Addr}
    (ha : ¬ Touches w m a) : u.byteAt a = s.byteAt a := by
  cases w with
  | w8 => rw [byteAt_of_writeDatum_w8 h, if_neg fun h => ha (.inl h.symm)]
  | w16 =>
    rw [byteAt_of_writeDatum_w16 h, if_neg fun h => ha (.inr ⟨rfl, h.symm⟩), if_neg fun h => ha (.inl h.symm)]

/-- Only the bytes of a store's own datum change. -/
theorem Effect.byteAt {s t : State} {i : Instr} (h : Effect s i t) {a : Addr}
    (ha : ∀ w m, storeAt s i = some (w, .ok m) → ¬ Touches w m a) : t.byteAt a = s.byteAt a := by
  cases hstore : storeAt s i with
  | none => exact congrArg (·.read a.toNat) (h.mem hstore)
  | some =>
    cases h with
    | stored w v m u hstore' hwrite => exact byteAt_of_writeDatum hwrite (ha w m hstore')
    | accumulator _ _ hnone | indexX _ _ hnone | indexY _ _ hnone => simp [hnone] at hstore
    | tcd | tcs | txs | txy | tyx | xba => cases hstore

/-! ### Which opcodes store -/

theorem storeAt_isSome_iff (s : State) (i : Instr) :
    (storeAt s i).isSome = true ↔ i.opcode ∈ [0x8D#8, 0x8F#8, 0x85#8, 0x92#8, 0x87#8, 0x9D#8, 0x9F#8, 0x99#8, 0x95#8,
      0x81#8, 0x91#8, 0x97#8, 0x83#8, 0x93#8, 0x8E#8, 0x86#8, 0x96#8, 0x8C#8, 0x84#8, 0x94#8, 0x9C#8, 0x64#8, 0x9E#8,
      0x74#8] := by
  cases i <;> simp [storeAt, Instr.opcode]

/-! ### Code addresses (R46) -/

theorem State.is65816_iff (s : State) : s.is65816 = true ↔ s.cfg.variant = .m65816 := by
  simp [State.is65816]

theorem State.is65816_eq_false_iff (s : State) : s.is65816 = false ↔ s.cfg.variant ≠ .m65816 := by
  simp [State.is65816]

theorem State.fetchAddr_toNat_65816 {s : State} (h : s.cfg.variant = .m65816) (k : Nat) :
    (s.fetchAddr k).toNat = s.pbr.toNat * 65536 + (s.pc.toNat + k) % 65536 := by
  have hv := s.is65816_iff.2 h
  rw [State.fetchAddr, State.codeAddr, State.a24_toNat_65816 s hv]
  simp [State.pbrReg, hv]

theorem State.fetchAddr_toNat_8bit {s : State} (h : s.cfg.variant ≠ .m65816) (k : Nat) :
    (s.fetchAddr k).toNat = (s.pc.toNat + k) % 65536 := by
  rw [State.fetchAddr, State.codeAddr, State.a24_toNat_8bit s (s.is65816_eq_false_iff.2 h)]
  simp

/-- `e` reads as 1 on the 8-bit processors (R43). -/
theorem State.eFlag_iff (s : State) : s.eFlag = true ↔ s.cfg.variant ≠ .m65816 ∨ s.e = true := by
  by_cases hv : s.cfg.variant = .m65816 <;> simp [State.eFlag, State.is65816, hv]

/-- A variant that has the instructions of one availability mark (R111). -/
theorem variant_of_only65816 {v : Variant} (h : Avail.only65816.allows v = true) : v = .m65816 := by
  cases v with
  | m65816 => rfl
  | m6502 | m65C02 => cases h

/-! ### Well-formed states -/

/-- `WellFormed` (R47) by what each clause is about: the index registers where they are 8 bits wide, the stack pointer
where `e` reads as 1, and the registers the 8-bit processors lack. -/
theorem State.wellFormed_iff (s : State) :
    s.WellFormed ↔
      (s.wX = .w8 → hiByte s.x = 0 ∧ hiByte s.y = 0) ∧
      (s.eFlag = true → s.cfg.emuStackPage = true → hiByte s.s = 0x01) ∧
      (s.cfg.variant ≠ .m65816 → s.d = 0 ∧ s.dbr = 0 ∧ s.pbr = 0 ∧ s.e = true) := by
  have hwX : s.wX = .w8 ↔ s.cfg.variant ≠ .m65816 ∨ s.e = true ∨ s.p.getLsbD bitX = true := by
    by_cases hv : s.cfg.variant = .m65816 <;> cases he : s.e <;>
      simp [State.wX, State.flagX, State.eFlag, State.is65816, hv, he]
  rw [hwX, s.eFlag_iff]
  unfold State.WellFormed
  by_cases hv : s.cfg.variant = .m65816 <;> cases he : s.e <;> simp [hv] <;> tauto

/-- An 8-bit value in an index register has a zero high byte (R34). -/
theorem hiByte_trunc_w8 (v : Word) : hiByte (trunc .w8 v) = 0 :=
  hiByte_word 0 (loByte v)

/-- At `wX` = 8 no instruction leaves a high byte in an index register, under the default reading of
`INDEX_WIDTH_FLAG`. -/
theorem Effect.hiByte_index {s t : State} {i : Instr} (h : Effect s i t) (hflag : s.cfg.indexWidthFlag = .x)
    (hw8 : s.wX = .w8) (hs : hiByte s.x = 0 ∧ hiByte s.y = 0) : hiByte t.x = 0 ∧ hiByte t.y = 0 := by
  have hwI : s.wI = .w8 := by simp [State.wI, hflag, hw8]
  obtain ⟨hx, hy⟩ := hs
  cases h with
  | stored w v m u _ hwrite =>
    obtain ⟨mem, rfl⟩ := writeDatum_mem_only hwrite
    exact ⟨hx, hy⟩
  | indexX w v _ hw =>
    obtain rfl : w = .w8 := hw.elim (·.trans hwI) (·.trans hw8)
    exact ⟨hiByte_trunc_w8 v, hy⟩
  | indexY w v _ hw =>
    obtain rfl : w = .w8 := hw.elim (·.trans hwI) (·.trans hw8)
    exact ⟨hx, hiByte_trunc_w8 v⟩
  | _ => simp [hx, hy]

/-- Where `e` reads as 1 the stack stays in page 1 (D9). -/
theorem Effect.hiByte_stack {s t : State} {i : Instr} (h : Effect s i t) (he : s.eFlag = true)
    (hpage : s.cfg.emuStackPage = true) (hs : hiByte s.s = 0x01) : hiByte t.s = 0x01 := by
  cases h with
  | stored w v m u _ hwrite =>
    obtain ⟨mem, rfl⟩ := writeDatum_mem_only hwrite
    exact hs
  | tcs => simp [he, hpage]
  | txs => simp [txsValue, he, hpage]
  | _ => simpa using hs

/-! ### The statements about what is kept -/

/-- Settles O46: each field is read off `Effect`. -/
theorem systemRegistersKept : Obligations.SystemRegistersKept := by
  intro i s t h
  have heffect := effect_of_exec h
  obtain ⟨hdbr, hpbr, he, hcfg, -⟩ := heffect.frame
  exact ⟨hdbr, hpbr, he, hcfg, heffect.ctx, heffect.flags, heffect.d, heffect.s⟩

/-- Settles O9: the offset of a code address is a 16-bit sum, and every effect advances `PC` by the length. -/
theorem programCounter : Obligations.ProgramCounter := by
  refine ⟨fun s k => ⟨(State.fetchAddr_toNat_65816 · k), (State.fetchAddr_toNat_8bit · k)⟩, fun i s t h => ?_⟩
  obtain ⟨-, hpbr, -, -, hpc⟩ := (effect_of_exec h).frame
  exact ⟨by simp [PcPast, hpc], hpbr⟩

/-- Settles O47: the opcodes listed are those of the instructions with a `storeAt`. -/
theorem storesAloneWriteMemory : Obligations.StoresAloneWriteMemory := by
  intro i s t h
  have heffect := effect_of_exec h
  simp only [← storeAt_isSome_iff s i]
  refine ⟨heffect.store_frame, fun hnone a => ?_, ?_⟩
  · exact congrArg (·.read a.toNat) (heffect.mem (by simpa using hnone))
  · rintro (rfl | rfl)
    · obtain rfl := Except.ok.inj ((exec_next_iff _ _ _).1 h).2
      rfl
    · obtain rfl := Except.ok.inj ((exec_next_iff _ _ _).1 h).2
      rfl

/-- Settles O48: each clause of `wellFormed_iff` is kept; TCD, which writes `D`, exists on the 65816 only. -/
theorem wellFormedKept : Obligations.WellFormedKept := by
  intro i s t hs hflag h
  have heffect := effect_of_exec h
  obtain ⟨hdbr, hpbr, he, hcfg, -⟩ := heffect.frame
  have hwX : t.wX = s.wX := State.wX_congr s t hcfg he (heffect.flags bitX (by decide) (by decide))
  rw [State.wellFormed_iff] at hs ⊢
  obtain ⟨hindex, hstack, habsent⟩ := hs
  rw [hwX, State.eFlag_congr s t hcfg he, hcfg, hdbr, hpbr, he]
  refine ⟨fun hw8 => heffect.hiByte_index hflag hw8 (hindex hw8),
    fun heF hpage => heffect.hiByte_stack heF hpage (hstack heF hpage), fun hv => ?_⟩
  obtain ⟨hd, hrest⟩ := habsent hv
  refine ⟨(heffect.d ?_).trans hd, hrest⟩
  rintro rfl
  exact hv (variant_of_only65816 (allows_of_exec h))

theorem State.readable_congr {s t : State} (h : t.cfg.memMap = s.cfg.memMap) (a : Addr) :
    t.readable a = s.readable a := by
  simp only [State.readable, State.kindAt, h]

theorem State.writable_congr {s t : State} (h : t.cfg.memMap = s.cfg.memMap) (a : Addr) :
    t.writable a = s.writable a := by
  simp only [State.writable, State.kindAt, h]

/-- Settles O57: the premises read the configuration, `e`, two bits of `P` and `PBR`, which every effect keeps; the
bytes of code are kept where no store touches them. -/
theorem launchPremisesKept : Obligations.LaunchPremisesKept := by
  intro i s t h
  have heffect := effect_of_exec h
  obtain ⟨-, hpbr, he, hcfg, -⟩ := heffect.frame
  have heFlag := State.eFlag_congr s t hcfg he
  have hmap : t.cfg.memMap = s.cfg.memMap := congrArg Config.memMap hcfg
  refine ⟨fun v hv => ?_, fun e m x hmode => ?_, fun hint => ?_, fun reads writes hplain => ?_,
    fun base bytes hcode htouch k hk => ?_⟩
  · rwa [State.VariantIs, hcfg]
  · rwa [State.ModeIs, State.flagM, State.flagX, heFlag, heffect.flags bitM (by decide) (by decide),
      heffect.flags bitX (by decide) (by decide)]
  · rwa [State.NoAsyncEvents, hcfg]
  · simpa only [State.PlainMemory, State.readable_congr hmap, State.writable_congr hmap] using hplain
  · rw [State.codeAddr_congr hcfg hpbr, heffect.byteAt fun w m hm => htouch w m hm k hk]
    exact hcode k hk

/-! ### Addresses inside the variant's space (R70) -/

theorem State.a24_lt_addrSpace (s : State) (b : Byte) (o : Word) : (s.a24 b o).toNat < s.addrSpace := by
  cases hv : s.is65816 with
  | true => simpa [State.addrSpace, hv] using (s.a24 b o).isLt
  | false => simpa [State.addrSpace, hv, s.a24_toNat_8bit hv] using o.isLt

theorem State.lin_lt_addrSpace (s : State) (a : Addr) (k : Word) : (s.lin a k).toNat < s.addrSpace := by
  cases hv : s.is65816 with
  | true => simpa [State.addrSpace, hv] using (s.lin a k).isLt
  | false => simpa [State.addrSpace, hv, s.lin_toNat_8bit hv] using Nat.mod_lt _ (by decide)

theorem State.dpa_lt_addrSpace (s : State) (off : Word) : (s.dpa off).toNat < s.addrSpace := by
  unfold State.dpa
  split <;> exact s.a24_lt_addrSpace _ _

/-- The mode gives no address outside the variant's space. -/
def ModeInSpace (s : State) (mode : Except Refusal EA) : Prop :=
  ∀ m, mode = .ok m → m.ea.toNat < s.addrSpace ∧ m.ea1.toNat < s.addrSpace

theorem modeInSpace_linear {s : State} {a : Addr} (h : a.toNat < s.addrSpace) : ModeInSpace s (.ok (linear s a)) := by
  rintro m ⟨⟩
  exact ⟨h, s.lin_lt_addrSpace a 1⟩

theorem modeInSpace_eaDpOff (s : State) (off : Word) : ModeInSpace s (.ok (eaDpOff off s)) := by
  rintro m ⟨⟩
  exact ⟨s.dpa_lt_addrSpace off, s.dpa_lt_addrSpace (off + 1)⟩

/-- A guarded pointer read followed by a linear datum. -/
theorem modeInSpace_guard16 {s : State} {off : Word} {α : Type} {ptr : Except Refusal α} {a : α → Addr}
    (h : ∀ p, (a p).toNat < s.addrSpace) : ModeInSpace s (guard16 s off (ptr >>= fun p => .ok (linear s (a p)))) := by
  intro m hm
  obtain ⟨p, -, hp⟩ := (bind_ok_iff _ _ _).1 ((guard16_ok_iff _ _ _ _).1 hm).2
  exact modeInSpace_linear (h p) m hp

/-- Where an available store puts its datum. The modes with a 24-bit operand or pointer exist on the 65816 only, where
every 24-bit address is in the space. -/
theorem storeAt_inSpace {s : State} {i : Instr} {w : Width} {mode : Except Refusal EA}
    (hav : i.avail.allows s.cfg.variant = true) (h : storeAt s i = some (w, mode)) : ModeInSpace s mode := by
  by_cases hv : s.cfg.variant = .m65816
  case pos =>
    intro m _
    have hspace : s.addrSpace = 2 ^ 24 := by simp [State.addrSpace, State.is65816, hv]
    exact hspace ▸ ⟨m.ea.isLt, m.ea1.isLt⟩
  case neg =>
    cases i with
    | staLong | staDpIndLong | staLongX | staDpIndLongY | staSr | staSrIndY =>
      exact absurd (variant_of_only65816 hav) hv
    | staAbs | stxAbs | styAbs | stzAbs =>
      cases h
      exact modeInSpace_linear (s.a24_lt_addrSpace _ _)
    | staAbsX | staAbsY | stzAbsX =>
      cases h
      exact modeInSpace_linear (s.lin_lt_addrSpace _ _)
    | staDp | staDpX | stxDp | stxDpY | styDp | styDpX | stzDp | stzDpX =>
      cases h
      exact modeInSpace_eaDpOff s _
    | staDpInd | staDpXInd =>
      cases h
      exact modeInSpace_guard16 fun p => s.a24_lt_addrSpace _ p
    | staDpIndY =>
      cases h
      exact modeInSpace_guard16 fun p => s.lin_lt_addrSpace _ _
    | _ => cases h

/-! ### The invariant -/

/-- Memory in order stays in order when a byte inside the space is written. -/
theorem State.MemOk.write {s : State} (h : s.MemOk) {a : Nat} (ha : a < s.addrSpace) (v : Byte) :
    State.MemOk { s with mem := s.mem.write a v } := by
  obtain ⟨hwf, hspace⟩ := h
  refine ⟨Memory.write_wf _ _ _ hwf, fun c hc => ?_⟩
  rcases Memory.mem_write _ _ _ _ hc with rfl | hc
  · exact ha
  · exact hspace c hc

theorem State.MemOk.writeDatum {s u : State} (h : s.MemOk) {w : Width} {m : EA} {v : Word}
    (hm : m.ea.toNat < s.addrSpace ∧ m.ea1.toNat < s.addrSpace) (hwrite : writeDatum s w m v = .ok u) : u.MemOk := by
  obtain ⟨hea, hea1⟩ := hm
  cases w with
  | w8 =>
    obtain ⟨-, rfl⟩ := (writeDatum_ok_iff s .w8 m v u).1 hwrite
    exact h.write hea _
  | w16 =>
    obtain ⟨-, -, rfl⟩ := (writeDatum_ok_iff s .w16 m v u).1 hwrite
    exact (h.write hea _).write hea1 _

theorem State.MemOk.congr {s t : State} (h : s.MemOk) (hmem : t.mem = s.mem) (hcfg : t.cfg = s.cfg) : t.MemOk := by
  unfold State.MemOk State.addrSpace at h ⊢
  rwa [State.is65816_congr s t hcfg, hmem]

/-- Every available instruction keeps memory in order. -/
theorem Effect.memOk {s t : State} {i : Instr} (h : Effect s i t) (hav : i.avail.allows s.cfg.variant = true)
    (hs : s.MemOk) : t.MemOk := by
  cases hstore : storeAt s i with
  | none =>
    obtain ⟨-, -, -, hcfg, -⟩ := h.frame
    exact hs.congr (h.mem hstore) hcfg
  | some p =>
    cases h with
    | stored w v m u hstore' hwrite =>
      exact (hs.writeDatum (storeAt_inSpace hav hstore' m rfl) hwrite).congr rfl rfl
    | accumulator _ _ hnone | indexX _ _ hnone | indexY _ _ hnone => simp [hnone] at hstore
    | tcd | tcs | txs | txy | tyx | xba => cases hstore

/-- Settles O49: a step that completes executes an instruction, which keeps the state well formed (O48), memory in order
and the configuration. -/
theorem stepKeepsInvariant : Obligations.StepKeepsInvariant := by
  intro s t hinv hstep
  obtain ⟨hwf, hmem, hflag⟩ := hinv
  cases hf : fetchInstr s with
  | error r => simp [step_of_fetch_error s r hf] at hstep
  | ok i =>
    rw [step_of_fetch s i hf] at hstep
    have heffect := effect_of_exec hstep
    obtain ⟨-, -, -, hcfg, -⟩ := heffect.frame
    exact ⟨wellFormedKept i s t hwf hflag hstep, heffect.memOk (allows_of_exec hstep) hmem, hcfg ▸ hflag⟩

/-- Settles O50: the reset states are closed terms, one for each variant. -/
theorem invariantAtReset : Obligations.InvariantAtReset :=
  ⟨by decide, fun v => by cases v <;> decide⟩

end Sys2Proof.Machine
end

section
/-!
The addressing modes as numbers (R130 to R149): what the accessors of absent registers answer on each variant, Direct
Page addresses and pointer reads, then each mode. O18 to O28 are assembled from these rules.
-/

namespace Sys2Proof.Machine

/-! ### Accessors of the registers that the 8-bit processors lack (R30) -/

theorem State.accessors_65816 {s : State} (h : s.cfg.variant = .m65816) :
    s.dReg = s.d ∧ s.dbrReg = s.dbr ∧ s.pbrReg = s.pbr ∧ s.eFlag = s.e := by
  simp [State.dReg, State.dbrReg, State.pbrReg, State.eFlag, s.is65816_iff.2 h]

theorem State.accessors_8bit {s : State} (h : s.cfg.variant ≠ .m65816) :
    s.dReg = 0 ∧ s.dbrReg = 0 ∧ s.pbrReg = 0 ∧ s.eFlag = true := by
  simp [State.dReg, State.dbrReg, State.pbrReg, State.eFlag, s.is65816_eq_false_iff.2 h]

/-- Settles O18: `A24` and `lin` as numbers, and the accessors. -/
theorem addressArithmetic : Obligations.AddressArithmetic := fun s b o a k =>
  ⟨fun h => ⟨s.a24_toNat_65816 (s.is65816_iff.2 h) b o, s.lin_toNat_65816 (s.is65816_iff.2 h) a k,
      State.accessors_65816 h⟩,
    fun h => ⟨s.a24_toNat_8bit (s.is65816_eq_false_iff.2 h) b o, s.lin_toNat_8bit (s.is65816_eq_false_iff.2 h) a k,
      State.accessors_8bit h⟩⟩

/-! ### Direct Page addresses (R131) -/

theorem loByte_eq_zero_iff (v : Word) : loByte v = 0 ↔ v.toNat % 256 = 0 := by
  rw [← BitVec.toNat_inj, loByte_toNat]
  rfl

/-- On the 8-bit processors the Direct Page is page zero. -/
theorem State.dpa_toNat_8bit {s : State} (h : s.cfg.variant ≠ .m65816) (off : Word) :
    (s.dpa off).toNat = off.toNat % 256 := by
  obtain ⟨hd, -, -, he⟩ := State.accessors_8bit h
  rw [State.dpa, hd, he, if_pos (by decide), s.a24_toNat_8bit (s.is65816_eq_false_iff.2 h), word_toNat, loByte_toNat]
  simp [hiByte_toNat]

theorem State.dpa_wraps_iff {s : State} (h : s.cfg.variant = .m65816) :
    (s.eFlag && loByte s.dReg == 0) = true ↔ s.e = true ∧ s.d.toNat % 256 = 0 := by
  obtain ⟨hd, -, -, he⟩ := State.accessors_65816 h
  rw [hd, he, Bool.and_eq_true, beq_iff_eq, loByte_eq_zero_iff]

/-- In emulation mode with `DL` = 0 a Direct Page address stays in its page. -/
theorem State.dpa_toNat_page {s : State} (h : s.cfg.variant = .m65816) (hpage : s.e = true ∧ s.d.toNat % 256 = 0)
    (off : Word) : (s.dpa off).toNat = s.d.toNat / 256 * 256 + off.toNat % 256 := by
  rw [State.dpa, if_pos ((State.dpa_wraps_iff h).2 hpage), s.a24_toNat_65816 (s.is65816_iff.2 h), word_toNat,
    loByte_toNat, hiByte_toNat, (State.accessors_65816 h).1]
  simp

/-- An offset from `D` in bank 0. -/
theorem State.dpl_toNat_65816 {s : State} (h : s.cfg.variant = .m65816) (off : Word) :
    (s.dpl off).toNat = (s.d.toNat + off.toNat) % 65536 := by
  rw [State.dpl, s.a24_toNat_65816 (s.is65816_iff.2 h), (State.accessors_65816 h).1]
  simp

theorem State.dpa_toNat_bank {s : State} (h : s.cfg.variant = .m65816) (hpage : ¬ (s.e = true ∧ s.d.toNat % 256 = 0))
    (off : Word) : (s.dpa off).toNat = (s.d.toNat + off.toNat) % 65536 := by
  rw [State.dpa, if_neg (mt (State.dpa_wraps_iff h).1 hpage)]
  exact State.dpl_toNat_65816 h off

theorem State.dlPenalty_iff (s : State) :
    s.dlPenalty = true ↔ s.cfg.variant = .m65816 ∧ s.d.toNat % 256 ≠ 0 := by
  rw [State.dlPenalty, Bool.and_eq_true, s.is65816_iff, bne_iff_ne, ne_eq, loByte_eq_zero_iff]
  exact and_congr_right fun h => by rw [(State.accessors_65816 h).1]

/-- Settles O19: the three formulas of R131, each on its own variant and mode. -/
theorem directPageAddress : Obligations.DirectPageAddress := fun s off =>
  ⟨(State.dpa_toNat_8bit · off), fun h he hd => State.dpa_toNat_page h ⟨he, hd⟩ off,
    (State.dpa_toNat_bank · · off), (State.dpl_toNat_65816 · off), s.dlPenalty_iff⟩

/-! ### Pointer reads (R132) -/

/-- Settles O20: the pointer's value from `word` and `long`, the refusals from the order of the reads. -/
theorem pointerReads : Obligations.PointerReads := by
  intro s a0 a1 a2
  refine ⟨fun h0 h1 => ⟨_, (ptr16_ok_iff _ _ _ _).2 ⟨h0, h1, rfl⟩, ?_⟩,
    fun h0 h1 h2 => ⟨_, (ptr24_ok_iff _ _ _ _ _).2 ⟨h0, h1, h2, rfl⟩, ?_⟩, fun h0 => ⟨?_, ?_⟩, fun h0 h1 => ⟨?_, ?_⟩,
    fun h0 h1 h2 => ?_⟩
  · rw [word_toNat]
    omega
  · rw [long_toNat]
    omega
  · exact (ptr16_error_iff _ _ _ _).2 (.inl ⟨h0, rfl⟩)
  · exact (ptr24_error_iff _ _ _ _ _).2 (.inl ⟨h0, rfl⟩)
  · exact (ptr16_error_iff _ _ _ _).2 (.inr ⟨h0, h1, rfl⟩)
  · exact (ptr24_error_iff _ _ _ _ _).2 (.inr (.inl ⟨h0, h1, rfl⟩))
  · exact (ptr24_error_iff _ _ _ _ _).2 (.inr (.inr ⟨h0, h1, h2, rfl⟩))

/-! ### Immediate (R133) -/

/-- The operand bytes of an instruction stand at `eaImm`, in the program bank. -/
theorem eaImm_eq_fetchAddr (s : State) : eaImm s = ⟨s.fetchAddr 1, s.fetchAddr 2⟩ := rfl

/-- Where the bytes of an immediate instruction stand at `PC`, memory holds its operand at `eaImm`. -/
theorem datumNat_eaImm {s : State} {op : Byte} {w : Width} {k : Word} (hfit : constFits w k = true)
    (hcode : s.CodeAt s.pc (op :: constBytes w k)) : datumNat s w (eaImm s) = k.toNat := by
  rw [eaImm_eq_fetchAddr]
  cases w with
  | w8 =>
    have h1 : s.byteAt (s.fetchAddr 1) = loByte k := hcode.fetched 1 (by simp [constBytes])
    have hk : k.toNat < 256 := by simpa [constFits] using hfit
    rw [datumNat, h1, loByte_toNat]
    omega
  | w16 =>
    have h1 : s.byteAt (s.fetchAddr 1) = loByte k := hcode.fetched 1 (by simp [constBytes, wordBytes])
    have h2 : s.byteAt (s.fetchAddr 2) = hiByte k := hcode.fetched 2 (by simp [constBytes, wordBytes])
    rw [datumNat, h1, h2, loByte_toNat, hiByte_toNat]
    omega

/-- Settles O21: the addresses are those of bytes 1 and 2 at `PC` (O9), and the bytes there are the operand's. -/
theorem immediateDatum : Obligations.ImmediateDatum := by
  intro s k
  have hfit {i : Instr} {w : Width} (himm : i.immediate? s.ctx = some (w, k)) (hwf : i.wf s.ctx = true) :
      constFits w k = true := by
    simpa [Instr.wf, himm] using (Bool.and_eq_true_iff.1 hwf).2
  exact ⟨fun h => ⟨State.fetchAddr_toNat_65816 h 1, State.fetchAddr_toNat_65816 h 2⟩,
    fun h => State.fetchAddr_toNat_8bit h 1, fun hwf => datumNat_eaImm (hfit rfl hwf),
    fun hwf => datumNat_eaImm (hfit rfl hwf), fun hwf => datumNat_eaImm (hfit rfl hwf)⟩

/-! ### Absolute modes (R134, R135, R139 to R141) -/

theorem linear_ea1_toNat_65816 {s : State} (h : s.cfg.variant = .m65816) (a : Addr) :
    (linear s a).ea1.toNat = ((linear s a).ea.toNat + 1) % 2 ^ 24 :=
  s.lin_toNat_65816 (s.is65816_iff.2 h) a 1

theorem linear_ea1_toNat_8bit {s : State} (h : s.cfg.variant ≠ .m65816) (a : Addr) :
    (linear s a).ea1.toNat = ((linear s a).ea.toNat + 1) % 2 ^ 16 :=
  s.lin_toNat_8bit (s.is65816_eq_false_iff.2 h) a 1

/-- An offset in bank `DBR`. -/
theorem State.a24_dbr_toNat_65816 {s : State} (h : s.cfg.variant = .m65816) (o : Word) :
    (s.a24 s.dbrReg o).toNat = s.dbr.toNat * 65536 + o.toNat := by
  rw [s.a24_toNat_65816 (s.is65816_iff.2 h), (State.accessors_65816 h).2.1]

/-- An offset in bank `DBR` with an index added, carrying into the bank (R139). -/
theorem State.lin_a24_dbr_toNat_65816 {s : State} (h : s.cfg.variant = .m65816) (o k : Word) :
    (s.lin (s.a24 s.dbrReg o) k).toNat = (s.dbr.toNat * 65536 + o.toNat + k.toNat) % 2 ^ 24 := by
  rw [s.lin_toNat_65816 (s.is65816_iff.2 h), State.a24_dbr_toNat_65816 h]

theorem State.lin_a24_toNat_8bit {s : State} (h : s.cfg.variant ≠ .m65816) (b : Byte) (o k : Word) :
    (s.lin (s.a24 b o) k).toNat = (o.toNat + k.toNat) % 2 ^ 16 := by
  have hv := s.is65816_eq_false_iff.2 h
  rw [s.lin_toNat_8bit hv, s.a24_toNat_8bit hv]

theorem crossPage_iff (base idx : Word) :
    crossPage base idx = true ↔ (base.toNat + idx.toNat) / 256 ≠ base.toNat / 256 := by
  simp [crossPage]

/-- Settles O22: the datum of every absolute mode is linear from `A24` or from `A24` plus an index. -/
theorem absoluteModes : Obligations.AbsoluteModes := by
  intro s addr long
  refine ⟨fun h => ?_, fun h => ?_, crossPage_iff _ _, crossPage_iff _ _⟩
  · refine ⟨State.a24_dbr_toNat_65816 h addr, rfl, State.lin_a24_dbr_toNat_65816 h addr s.x,
      s.lin_toNat_65816 (s.is65816_iff.2 h) long s.x, State.lin_a24_dbr_toNat_65816 h addr s.y, ?_⟩
    simp only [List.forall_mem_cons, List.not_mem_nil, false_imp_iff, implies_true, and_true]
    and_intros <;> exact linear_ea1_toNat_65816 h _
  · refine ⟨s.a24_toNat_8bit (s.is65816_eq_false_iff.2 h) _ addr, State.lin_a24_toNat_8bit h _ addr s.x,
      State.lin_a24_toNat_8bit h _ addr s.y, ?_⟩
    simp only [List.forall_mem_cons, List.not_mem_nil, false_imp_iff, implies_true, and_true]
    and_intros <;> exact linear_ea1_toNat_8bit h _

/-! ### Direct Page modes (R136, R142, R143) -/

/-- The low and high byte of a datum at a Direct Page offset, where the offset is known modulo 2^16. -/
theorem eaDpOff_toNat {s : State} {off : Word} {n : Nat} (hoff : off.toNat = n % 65536) :
    (s.cfg.variant ≠ .m65816 →
      (eaDpOff off s).ea.toNat = n % 256 ∧ (eaDpOff off s).ea1.toNat = (n + 1) % 256) ∧
    (s.cfg.variant = .m65816 → s.e = true → s.d.toNat % 256 = 0 →
      (eaDpOff off s).ea.toNat = s.d.toNat / 256 * 256 + n % 256 ∧
      (eaDpOff off s).ea1.toNat = s.d.toNat / 256 * 256 + (n + 1) % 256) ∧
    (s.cfg.variant = .m65816 → ¬ (s.e = true ∧ s.d.toNat % 256 = 0) →
      (eaDpOff off s).ea.toNat = (s.d.toNat + n) % 65536 ∧
      (eaDpOff off s).ea1.toNat = (s.d.toNat + n + 1) % 65536) := by
  have hnext : (off + 1).toNat = (n + 1) % 65536 := by
    rw [BitVec.toNat_add, hoff]
    exact Nat.mod_add_mod n 65536 1
  refine ⟨fun h => ?_, fun h he hd => ?_, fun h hpage => ?_⟩
  · simp only [eaDpOff, State.dpa_toNat_8bit h, hoff, hnext]
    omega
  · simp only [eaDpOff, State.dpa_toNat_page h ⟨he, hd⟩, hoff, hnext]
    omega
  · simp only [eaDpOff, State.dpa_toNat_bank h hpage, hoff, hnext]
    omega

/-- An indexed Direct Page offset as a number. -/
theorem offset_add_toNat (o : Byte) (k : Word) : (offset o + k).toNat = (o.toNat + k.toNat) % 65536 := by
  rw [BitVec.toNat_add, offset_toNat]

/-- Settles O23: the three modes differ in the offset only. -/
theorem directPageModes : Obligations.DirectPageModes := by
  intro s dp
  have hdp : (offset dp).toNat = dp.toNat % 65536 := by
    have := dp.isLt
    rw [offset_toNat]
    omega
  simp only [List.forall_mem_cons, List.not_mem_nil, false_imp_iff, implies_true, and_true]
  exact ⟨eaDpOff_toNat hdp, eaDpOff_toNat (offset_add_toNat dp s.x), eaDpOff_toNat (offset_add_toNat dp s.y)⟩

/-! ### Modes through a pointer (R137, R138, R144 to R146) -/

/-- The 16-bit pointer that memory holds at two addresses. -/
def State.ptr16At (s : State) (a0 a1 : Addr) : Word := word (s.byteAt a1) (s.byteAt a0)

theorem State.ptr16At_toNat (s : State) (a0 a1 : Addr) :
    (s.ptr16At a0 a1).toNat = (s.byteAt a0).toNat + 256 * (s.byteAt a1).toNat := by
  rw [State.ptr16At, word_toNat]
  omega

/-- A readable pointer gives the address that `f` makes of it. -/
theorem ptr16_bind_eq_ok {s : State} {a0 a1 : Addr} (h0 : s.readable a0 = true) (h1 : s.readable a1 = true)
    (f : Word → EA) : (ptr16 s a0 a1 >>= fun p => .ok (f p)) = .ok (f (s.ptr16At a0 a1)) :=
  (bind_ok_iff _ _ _).2 ⟨_, (ptr16_ok_iff _ _ _ _).2 ⟨h0, h1, rfl⟩, rfl⟩

/-- A 16-bit pointer in bank `DBR` with an index added, as the 65816 reads it. -/
theorem State.lin_ptr16At_toNat_65816 {s : State} (h : s.cfg.variant = .m65816) (a0 a1 : Addr) (k : Word) :
    (s.lin (s.a24 s.dbrReg (s.ptr16At a0 a1)) k).toNat =
      (s.dbr.toNat * 65536 + (s.byteAt a0).toNat + 256 * (s.byteAt a1).toNat + k.toNat) % 2 ^ 24 := by
  rw [State.lin_a24_dbr_toNat_65816 h, State.ptr16At_toNat, ← Nat.add_assoc]

/-- A 16-bit pointer in bank `DBR`, which needs no reduction. -/
theorem State.a24_ptr16At_toNat_65816 {s : State} (h : s.cfg.variant = .m65816) (a0 a1 : Addr) :
    (s.a24 s.dbrReg (s.ptr16At a0 a1)).toNat =
      (s.dbr.toNat * 65536 + (s.byteAt a0).toNat + 256 * (s.byteAt a1).toNat + 0) % 2 ^ 24 := by
  have hlt := (s.a24 s.dbrReg (s.ptr16At a0 a1)).isLt
  have heq := State.a24_dbr_toNat_65816 h (s.ptr16At a0 a1)
  rw [State.ptr16At_toNat] at heq
  omega

theorem State.lin_ptr16At_toNat_8bit {s : State} (h : s.cfg.variant ≠ .m65816) (b : Byte) (a0 a1 : Addr) (k : Word) :
    (s.lin (s.a24 b (s.ptr16At a0 a1)) k).toNat =
      ((s.byteAt a0).toNat + 256 * (s.byteAt a1).toNat + k.toNat) % 2 ^ 16 := by
  rw [State.lin_a24_toNat_8bit h, State.ptr16At_toNat]

theorem State.a24_ptr16At_toNat_8bit {s : State} (h : s.cfg.variant ≠ .m65816) (b : Byte) (a0 a1 : Addr) :
    (s.a24 b (s.ptr16At a0 a1)).toNat = ((s.byteAt a0).toNat + 256 * (s.byteAt a1).toNat + 0) % 2 ^ 16 := by
  have hlt := (s.ptr16At a0 a1).isLt
  rw [s.a24_toNat_8bit (s.is65816_eq_false_iff.2 h), ← State.ptr16At_toNat]
  omega

/-- Settles O24: outside the corner the guard passes, the pointer is read, and the datum is linear from it. -/
theorem pointerModes : Obligations.PointerModes := by
  intro s dp
  simp only [List.forall_mem_cons, List.not_mem_nil, false_imp_iff, implies_true, and_true]
  refine ⟨fun hc h0 h1 => ⟨_, (guard16_ok_iff _ _ _ _).2 ⟨hc, ptr16_bind_eq_ok h0 h1 _⟩,
      fun h => ⟨?_, linear_ea1_toNat_65816 h _⟩, fun h => ?_⟩,
    fun hc h0 h1 => ⟨_, (guard16_ok_iff _ _ _ _).2 ⟨hc, ptr16_bind_eq_ok h0 h1 _⟩,
      fun h => ⟨?_, linear_ea1_toNat_65816 h _⟩, fun h => ?_⟩,
    fun hc h0 h1 => ⟨_, (guard16_ok_iff _ _ _ _).2 ⟨hc, ptr16_bind_eq_ok h0 h1 _⟩,
      fun h => ⟨?_, linear_ea1_toNat_65816 h _⟩, fun h => ?_⟩⟩
  · exact State.a24_ptr16At_toNat_65816 h _ _
  · exact State.a24_ptr16At_toNat_8bit h _ _ _
  · exact State.a24_ptr16At_toNat_65816 h _ _
  · exact State.a24_ptr16At_toNat_8bit h _ _ _
  · exact State.lin_ptr16At_toNat_65816 h _ _ _
  · exact State.lin_ptr16At_toNat_8bit h _ _ _ _

/-- The 24-bit pointer that memory holds at three addresses. -/
def State.ptr24At (s : State) (a0 a1 a2 : Addr) : Addr := long (s.byteAt a2) (s.byteAt a1) (s.byteAt a0)

theorem State.ptr24At_toNat (s : State) (a0 a1 a2 : Addr) :
    (s.ptr24At a0 a1 a2).toNat =
      (s.byteAt a0).toNat + 256 * (s.byteAt a1).toNat + 65536 * (s.byteAt a2).toNat := by
  rw [State.ptr24At, long_toNat]
  omega

theorem ptr24_bind_eq_ok {s : State} {a0 a1 a2 : Addr} (h0 : s.readable a0 = true) (h1 : s.readable a1 = true)
    (h2 : s.readable a2 = true) (f : Addr → EA) :
    (ptr24 s a0 a1 a2 >>= fun p => .ok (f p)) = .ok (f (s.ptr24At a0 a1 a2)) :=
  (bind_ok_iff _ _ _).2 ⟨_, (ptr24_ok_iff _ _ _ _ _).2 ⟨h0, h1, h2, rfl⟩, rfl⟩

/-- Settles O25: as O24, with a pointer of three bytes that names its bank. -/
theorem longPointerModes : Obligations.LongPointerModes := by
  intro s dp h
  simp only [List.forall_mem_cons, List.not_mem_nil, false_imp_iff, implies_true, and_true, ← State.ptr24At_toNat]
  refine ⟨fun hc h0 h1 h2 => ⟨_, (guard24_ok_iff _ _ _ _).2 ⟨hc, ptr24_bind_eq_ok h0 h1 h2 _⟩, ?_,
      linear_ea1_toNat_65816 h _⟩,
    fun hc h0 h1 h2 => ⟨_, (guard24_ok_iff _ _ _ _).2 ⟨hc, ptr24_bind_eq_ok h0 h1 h2 _⟩, ?_,
      linear_ea1_toNat_65816 h _⟩⟩
  · exact (Nat.mod_eq_of_lt (BitVec.isLt _)).symm
  · exact s.lin_toNat_65816 (s.is65816_iff.2 h) _ s.y

/-! ### Stack Relative modes (R147, R148) -/

/-- An offset from `S` in bank 0. -/
theorem State.stackAddr_toNat_65816 {s : State} (h : s.cfg.variant = .m65816) (sr : Byte) :
    (s.a24 0 (s.s + offset sr)).toNat = (s.s.toNat + sr.toNat) % 65536 ∧
    (s.a24 0 (s.s + offset sr + 1)).toNat = (s.s.toNat + sr.toNat + 1) % 65536 := by
  have hv := s.is65816_iff.2 h
  rw [s.a24_toNat_65816 hv, s.a24_toNat_65816 hv]
  simp [offset_toNat]

/-- Settles O26: the addresses of the pointer are the ones named, since they are the same numbers. -/
theorem stackModes : Obligations.StackModes := by
  intro s sr h
  obtain ⟨hlo, hhi⟩ := State.stackAddr_toNat_65816 h sr
  refine ⟨fun hc => ⟨_, (guardSr_ok_iff _ _ _ _ _).2 ⟨hc, rfl⟩, hlo, hhi⟩, fun hc a0 a1 ha0 ha1 h0 h1 => ?_⟩
  obtain rfl : s.a24 0 (s.s + offset sr) = a0 := BitVec.eq_of_toNat_eq (hlo.trans ha0.symm)
  obtain rfl : s.a24 0 (s.s + offset sr + 1) = a1 := BitVec.eq_of_toNat_eq (hhi.trans ha1.symm)
  exact ⟨_, (guardSr_ok_iff _ _ _ _ _).2 ⟨hc, ptr16_bind_eq_ok h0 h1 _⟩,
    State.lin_ptr16At_toNat_65816 h _ _ _, linear_ea1_toNat_65816 h _⟩

/-! ### The corners (R151) -/

/-- Settles O27: each mode is that of some load, whose corner `cornerOf` gives as a number, and `ModeRefusals` says
when that mode is refused. -/
theorem emulationCorners : Obligations.EmulationCorners := by
  intro s o
  have hInd : ModeRefusals s (.ldaDpInd o) (eaDpInd o s) := modeRefusals_eaDpInd rfl
  have hIndY : ModeRefusals s (.ldaDpIndY o) (eaDpIndY o s) := modeRefusals_eaDpIndY rfl
  have hXInd : ModeRefusals s (.ldaDpXInd o) (eaDpXInd o s) := modeRefusals_eaDpXInd rfl
  have hLong : ModeRefusals s (.ldaDpIndLong o) (eaDpIndLong o s) := modeRefusals_eaDpIndLong rfl
  have hLongY : ModeRefusals s (.ldaDpIndLongY o) (eaDpIndLongY o s) := modeRefusals_eaDpIndLongY rfl
  have hSr : ModeRefusals s (.ldaSr o) (eaSr o s) := modeRefusals_eaSr rfl
  have hSrIndY : ModeRefusals s (.ldaSrIndY o) (eaSrIndY o s) := modeRefusals_eaSrIndY rfl
  refine ⟨fun hv he href => ?_, fun hopen => ?_⟩
  · have hcorner {i : Instr} {r : Refusal} {mode : Except Refusal EA} (hmode : ModeRefusals s i mode)
        (h : cornerOf s i = some r) : mode = .error r :=
      hmode.corner r ⟨hv, he, href, h⟩
    exact ⟨fun h => ⟨hcorner hInd (if_pos h), hcorner hIndY (if_pos h)⟩, fun h => hcorner hXInd (if_pos h),
      fun h => ⟨hcorner hLong (if_pos h), hcorner hLongY (if_pos h)⟩, fun h => hcorner hSr (if_pos h),
      fun h => hcorner hSrIndY (if_pos h)⟩
  · have hmem {i : Instr} {mode : Except Refusal EA} (hmode : ModeRefusals s i mode) (r : Refusal)
        (h : mode = .error r) : ∃ a, r = .notPlainMemory a := by
      rcases hmode.only r h with ⟨hv, he, href, -⟩ | ⟨a, ha, -⟩
      · exact absurd ⟨hv, he, href⟩ hopen
      · exact ⟨a, ha⟩
    simp only [List.forall_mem_cons, List.not_mem_nil, false_imp_iff, implies_true, and_true]
    exact ⟨hmem hInd, hmem hIndY, hmem hXInd, hmem hLong, hmem hLongY, hmem hSr, hmem hSrIndY⟩

/-- Settles O28: `LDX_INDEX` selects the mode. -/
theorem ldxIndexRegister : Obligations.LdxIndexRegister := by
  intro s addr dp
  refine ⟨fun h => ?_, fun h => ?_, fun v => rfl⟩
  · simp [eaLdxAbs, eaLdxDp, h]
  · simp [eaLdxAbs, eaLdxDp, h]

end Sys2Proof.Machine
end

section
/-!
The loads of LDA, LDX and LDY (R170, R190, R200) and the stores of STX and STY (R230, R240): one rule for each
register's immediate and one for its loads through memory; the stores use the rule of STA. O29 to O31, O33 and O34 are
assembled from these rules; O15 to O17 state the operations they rest on.
-/

namespace Sys2Proof.Machine

/-! ### Memory that is not plain, flags and widths -/

theorem State.readable_eq_false_iff (s : State) (a : Addr) :
    s.readable a = false ↔ s.kindAt a = .device ∨ s.kindAt a = .absent := by
  unfold State.readable
  cases s.kindAt a <;> simp

theorem State.writable_eq_false_iff (s : State) (a : Addr) : s.writable a = false ↔ s.kindAt a ≠ .ram := by
  unfold State.writable
  cases s.kindAt a <;> simp

/-- Settles O15: each refusal is a case of what the operation is refused for. -/
theorem notPlainMemoryRefused : Obligations.NotPlainMemoryRefused :=
  ⟨fun s a h => (readByte_error_iff _ _ _).2 ⟨(s.readable_eq_false_iff a).2 h, rfl⟩,
    fun s a _ h => (writeByte_error_iff _ _ _ _).2 ⟨(s.writable_eq_false_iff a).2 h, rfl⟩,
    fun _ _ h => (readDatum_error_iff _ _ _ _).2 (.inl ⟨h, rfl⟩),
    fun _ _ h h1 => (readDatum_error_iff _ _ _ _).2 (.inr ⟨rfl, h, h1, rfl⟩),
    fun _ _ _ h => (writeDatum_error_iff _ _ _ _ _).2 (.inl ⟨h, rfl⟩),
    fun _ _ _ h h1 => (writeDatum_error_iff _ _ _ _ _).2 (.inr ⟨rfl, h, h1, rfl⟩)⟩

/-- Settles O16: `putNZ` writes `setNZ` to `P` and nothing else. -/
theorem flagUpdate : Obligations.FlagUpdate := fun _ _ _ => ⟨flagsFollow_of_p_eq rfl, rfl⟩

theorem State.flagM_eq_false_iff (s : State) :
    s.flagM = false ↔ s.cfg.variant = .m65816 ∧ s.e = false ∧ s.p.getLsbD 5 = false := by
  by_cases h : s.cfg.variant = .m65816
  · simp [State.flagM, (State.accessors_65816 h).2.2.2, h, bitM]
  · simp [State.flagM, (State.accessors_8bit h).2.2.2, h]

theorem State.flagX_eq_false_iff (s : State) :
    s.flagX = false ↔ s.cfg.variant = .m65816 ∧ s.e = false ∧ s.p.getLsbD 4 = false := by
  by_cases h : s.cfg.variant = .m65816
  · simp [State.flagX, (State.accessors_65816 h).2.2.2, h, bitX]
  · simp [State.flagX, (State.accessors_8bit h).2.2.2, h]

/-- Settles O17: a width is 16 where its flag reads as 0. -/
theorem widths : Obligations.Widths := by
  intro s
  refine ⟨?_, ?_, fun h => ?_, fun h => ?_⟩
  · rw [← s.flagM_eq_false_iff, State.wA]
    cases s.flagM <;> simp
  · rw [← s.flagX_eq_false_iff, State.wX]
    cases s.flagX <;> simp
  · simp [State.wI, h]
  · simp [State.wI, h]

/-! ### What a register write leaves -/

/-- The number of a datum fits its width. -/
theorem datumNat_lt (s : State) (w : Width) (m : EA) : datumNat s w m < 2 ^ bits w := by
  have hlo := (s.byteAt m.ea).isLt
  have hhi := (s.byteAt m.ea1).isLt
  cases w <;> simp only [datumNat, bits] <;> omega

/-- The length of an immediate instruction as the statements write it (R105). -/
theorem immLength_eq_ite (w : Width) : immLength w = if w = .w8 then 2 else 3 := by
  cases w <;> rfl

/-- Loading the accumulator: the value at the width, its flags, `PC` past the instruction and nothing else. -/
theorem State.putA_loads (s : State) (w : Width) (v : Word) (len : Nat) (t : State)
    (ht : t = ((s.putA w v).putNZ w v).advance len) :
    AccHolds w v.toNat s t ∧ FlagsFollow w v.toNat s t ∧ PcPast len s t ∧ SameMemory s t ∧
      t = { s with a := t.a, b := t.b, p := t.p, pc := t.pc } := by
  subst ht
  refine ⟨accHolds_of_putA rfl rfl, flagsFollow_of_p_eq (by simp), pcPast_advance (by simp), fun a => by simp, ?_⟩
  rw [State.putA_frame]
  rfl

/-- Loading `X`: the value cut to the width and zero-extended. -/
theorem State.putX_loads (s : State) (w : Width) (v : Word) (len : Nat) (t : State)
    (ht : t = ((s.putX w v).putNZ w v).advance len) :
    t.x.toNat = v.toNat % 2 ^ bits w ∧ FlagsFollow w v.toNat s t ∧ PcPast len s t ∧ SameMemory s t ∧
      t = { s with x := t.x, p := t.p, pc := t.pc } := by
  subst ht
  exact ⟨trunc_toNat w v, flagsFollow_of_p_eq rfl, pcPast_advance rfl, fun a => rfl, rfl⟩

/-- Loading `Y`: the value cut to the width and zero-extended. -/
theorem State.putY_loads (s : State) (w : Width) (v : Word) (len : Nat) (t : State)
    (ht : t = ((s.putY w v).putNZ w v).advance len) :
    t.y.toNat = v.toNat % 2 ^ bits w ∧ FlagsFollow w v.toNat s t ∧ PcPast len s t ∧ SameMemory s t ∧
      t = { s with y := t.y, p := t.p, pc := t.pc } := by
  subst ht
  exact ⟨trunc_toNat w v, flagsFollow_of_p_eq rfl, pcPast_advance rfl, fun a => rfl, rfl⟩

/-! ### Loads through memory -/

section
variable {i : Instr} {len : Nat} {mode : State → Except Refusal EA}

theorem loadsA_of_body (hbody : ∀ s, body i s = loadA len (mode s) s) : LoadsA i len mode := by
  intro s m hav hm hread
  obtain ⟨v, hv⟩ := (exists_readDatum_ok_iff s s.wA m).2 hread
  rw [← readDatum_toNat hv]
  refine ⟨_, (exec_next_iff i s _).2 ⟨hav, ?_⟩, s.putA_loads s.wA v len _ rfl⟩
  rw [hbody, loadA_ok_iff]
  exact ⟨m, v, hm, hv, rfl⟩

theorem loadsX_of_body (hbody : ∀ s, body i s = loadX len (mode s) s) : LoadsX i len mode := by
  intro s m hav hm hread
  obtain ⟨v, hv⟩ := (exists_readDatum_ok_iff s s.wI m).2 hread
  obtain ⟨hx, hrest⟩ := s.putX_loads s.wI v len _ rfl
  rw [readDatum_toNat hv] at hx hrest
  refine ⟨_, (exec_next_iff i s _).2 ⟨hav, ?_⟩, hx.trans (Nat.mod_eq_of_lt (datumNat_lt s s.wI m)), hrest⟩
  rw [hbody, loadX_ok_iff]
  exact ⟨m, v, hm, hv, rfl⟩

theorem loadsY_of_body (hbody : ∀ s, body i s = loadY len (mode s) s) : LoadsY i len mode := by
  intro s m hav hm hread
  obtain ⟨v, hv⟩ := (exists_readDatum_ok_iff s s.wI m).2 hread
  obtain ⟨hy, hrest⟩ := s.putY_loads s.wI v len _ rfl
  rw [readDatum_toNat hv] at hy hrest
  refine ⟨_, (exec_next_iff i s _).2 ⟨hav, ?_⟩, hy.trans (Nat.mod_eq_of_lt (datumNat_lt s s.wI m)), hrest⟩
  rw [hbody, loadY_ok_iff]
  exact ⟨m, v, hm, hv, rfl⟩

end

/-! ### The statements -/

/-- Settles O29: the immediate writes its operand; the other 14 bodies are loads through their modes. -/
theorem loadAccumulator : Obligations.LoadAccumulator :=
  ⟨fun k s => ⟨_, rfl, immLength_eq_ite s.wA ▸ s.putA_loads s.wA k _ _ rfl⟩,
    fun _ => loadsA_of_body fun _ => rfl, fun _ => loadsA_of_body fun _ => rfl,
    fun _ => loadsA_of_body fun _ => rfl, fun _ => loadsA_of_body fun _ => rfl,
    fun _ => loadsA_of_body fun _ => rfl, fun _ => loadsA_of_body fun _ => rfl,
    fun _ => loadsA_of_body fun _ => rfl, fun _ => loadsA_of_body fun _ => rfl,
    fun _ => loadsA_of_body fun _ => rfl, fun _ => loadsA_of_body fun _ => rfl,
    fun _ => loadsA_of_body fun _ => rfl, fun _ => loadsA_of_body fun _ => rfl,
    fun _ => loadsA_of_body fun _ => rfl, fun _ => loadsA_of_body fun _ => rfl⟩

/-- Settles O30: the immediate writes its operand cut to the width; the other 4 bodies are loads through their modes. -/
theorem loadIndexX : Obligations.LoadIndexX :=
  ⟨fun k s => ⟨_, rfl, immLength_eq_ite s.wI ▸ s.putX_loads s.wI k _ _ rfl⟩,
    fun _ => loadsX_of_body fun _ => rfl, fun _ => loadsX_of_body fun _ => rfl,
    fun _ => loadsX_of_body fun _ => rfl, fun _ => loadsX_of_body fun _ => rfl⟩

/-- Settles O31, as O30. -/
theorem loadIndexY : Obligations.LoadIndexY :=
  ⟨fun k s => ⟨_, rfl, immLength_eq_ite s.wI ▸ s.putY_loads s.wI k _ _ rfl⟩,
    fun _ => loadsY_of_body fun _ => rfl, fun _ => loadsY_of_body fun _ => rfl,
    fun _ => loadsY_of_body fun _ => rfl, fun _ => loadsY_of_body fun _ => rfl⟩

/-- Settles O33: each of the 3 bodies is a store of `X`, and each mode keeps the two bytes of its datum apart. -/
theorem storeIndexX : Obligations.StoreIndexX :=
  ⟨fun addr => stores_of_body (fun _ => rfl) <| bytesApart_linear fun s => s.a24 s.dbrReg addr,
    fun dp => stores_of_body (fun _ => rfl) <| bytesApart_eaDpOff fun _ => offset dp,
    fun dp => stores_of_body (fun _ => rfl) <| bytesApart_eaDpOff fun s => offset dp + s.y⟩

/-- Settles O34: each of the 3 bodies is a store of `Y`, and each mode keeps the two bytes of its datum apart. -/
theorem storeIndexY : Obligations.StoreIndexY :=
  ⟨fun addr => stores_of_body (fun _ => rfl) <| bytesApart_linear fun s => s.a24 s.dbrReg addr,
    fun dp => stores_of_body (fun _ => rfl) <| bytesApart_eaDpOff fun _ => offset dp,
    fun dp => stores_of_body (fun _ => rfl) <| bytesApart_eaDpOff fun s => offset dp + s.x⟩

end Sys2Proof.Machine
end

section
/-!
The other transfers and XBA (R262 to R272) over the rules of a one-byte instruction whose body completes, and the round
trips of law W8. O37 to O40 and O42 to O45 are assembled from them.
-/

namespace Sys2Proof.Machine

/-! ### Values transferred -/

/-- A value at a width as a number. -/
theorem trunc_toNat_ite (w : Width) (v : Word) :
    (trunc w v).toNat = if w = .w8 then v.toNat % 256 else v.toNat := by
  cases w with
  | w8 => simp [trunc, word_toNat, loByte_toNat]
  | w16 => rfl

/-- What `Transfers` says may be shown under the availability of the instruction. -/
theorem Transfers.of_allows {i : Instr} {P : State → State → Prop}
    (h : Transfers i fun s t => i.avail.allows s.cfg.variant = true → P s t) : Transfers i P := by
  intro s hav
  obtain ⟨t, ht, hpc, hmem, hP⟩ := h s hav
  exact ⟨t, ht, hpc, hmem, hP hav⟩

/-- Settles O37: the value is `C` whatever the widths are, with its 16-bit flags. -/
theorem accumulatorToDirectPage : Obligations.AccumulatorToDirectPage :=
  ⟨oneByte_of_row (fun _ => rfl) rfl rfl,
    transfers_of_body (fun _ => rfl) (fun _ => rfl) (fun _ => rfl) fun s =>
      ⟨s.c_toNat, flagsFollow_of_p_eq rfl, rfl⟩⟩

/-- Settles O38: where TCS exists `eFlag` is `e`, and both values are words with a known high byte. -/
theorem accumulatorToStackPointer : Obligations.AccumulatorToStackPointer := by
  refine ⟨oneByte_of_row (fun _ => rfl) rfl rfl,
    Transfers.of_allows <| transfers_of_body (fun _ => rfl) (fun _ => rfl) (fun _ => rfl) fun s hav => ⟨?_, rfl⟩⟩
  obtain ⟨-, -, -, he⟩ := State.accessors_65816 (variant_of_only65816 hav)
  rw [State.advance_s]
  simp only [he, Bool.and_eq_true, apply_ite BitVec.toNat, word_toNat, State.c_toNat]
  rfl

theorem word_zero_toNat (b : Byte) : (word 0 b).toNat = b.toNat := by
  simp [word_toNat]

/-- Settles O39: the source of TDC is `D` itself where TDC exists. -/
theorem sixteenBitsToAccumulator : Obligations.SixteenBitsToAccumulator := by
  refine ⟨oneByte_of_row (fun _ => rfl) rfl rfl, oneByte_of_row (fun _ => rfl) rfl rfl,
    Transfers.of_allows <| transfers_of_body (fun _ => rfl) (fun _ => rfl) (fun _ => rfl) fun s hav => ?_,
    transfers_of_body (fun _ => rfl) (fun _ => rfl) (fun _ => rfl) fun s =>
      ⟨loByte_toNat s.s, hiByte_toNat s.s, flagsFollow_of_p_eq rfl, rfl⟩⟩
  obtain ⟨hd, -, -, -⟩ := State.accessors_65816 (variant_of_only65816 hav)
  rw [hd]
  exact ⟨loByte_toNat s.d, hiByte_toNat s.d, flagsFollow_of_p_eq rfl, rfl⟩

/-- Settles O40: `X` takes `S` cut to `wX`, and the flags of the cut value are those of `S` at that width. -/
theorem stackPointerToIndex : Obligations.StackPointerToIndex :=
  ⟨oneByte_of_row (fun _ => rfl) rfl rfl,
    transfers_of_body (fun _ => rfl) (fun _ => rfl) (fun _ => rfl) fun s =>
      ⟨trunc_toNat_ite s.wX s.s, flagsFollow_trunc_iff.2 (flagsFollow_of_p_eq rfl), rfl⟩⟩

/-- The value TXS gives `S` as a number. -/
theorem txsValue_toNat (s : State) :
    (txsValue s).toNat = (if s.cfg.variant ≠ .m65816 ∨ s.e = true then
        (if s.cfg.emuStackPage = true then 0x100 else 0) + s.x.toNat % 256
      else if s.wX = .w8 then s.x.toNat % 256 else s.x.toNat) := by
  rw [txsValue, apply_ite BitVec.toNat, trunc_toNat_ite, word_toNat, loByte_toNat]
  refine if_congr s.eFlag_iff ?_ rfl
  cases s.cfg.emuStackPage <;> rfl

/-- Settles O42: `S` takes `txsValue`. -/
theorem indexToStackPointer : Obligations.IndexToStackPointer :=
  ⟨oneByte_of_row (fun _ => rfl) rfl rfl,
    transfers_of_body (fun _ => rfl) (fun _ => rfl) (fun _ => rfl) fun s => ⟨txsValue_toNat s, rfl⟩⟩

/-- Settles O43: the container moves whole, and the flags are `setNZ` of it at `wX`. -/
theorem indexToIndex : Obligations.IndexToIndex :=
  ⟨oneByte_of_row (fun _ => rfl) rfl rfl, oneByte_of_row (fun _ => rfl) rfl rfl,
    transfers_of_body (fun _ => rfl) (fun _ => rfl) (fun _ => rfl) fun _ => ⟨rfl, flagsFollow_of_p_eq rfl, rfl⟩,
    transfers_of_body (fun _ => rfl) (fun _ => rfl) (fun _ => rfl) fun _ => ⟨rfl, flagsFollow_of_p_eq rfl, rfl⟩⟩

/-- Settles O44: the new `A`, zero-extended, is the value of the flags. -/
theorem exchangeAccumulators : Obligations.ExchangeAccumulators :=
  ⟨oneByte_of_row (fun _ => rfl) rfl rfl,
    transfers_of_body (fun _ => rfl) (fun _ => rfl) (fun _ => rfl) fun s =>
      ⟨rfl, rfl, word_zero_toNat s.b ▸ flagsFollow_of_p_eq rfl, rfl⟩⟩

/-! ### Round trips -/

/-- The low byte of a value cut to a width is the value's. -/
theorem loByte_trunc (w : Width) (v : Word) : loByte (trunc w v) = loByte v := by
  cases w with
  | w8 => exact loByte_word 0 (loByte v)
  | w16 => rfl

/-- The first transfer of a round trip keeps both widths. -/
theorem Effect.widths {s t : State} {i : Instr} (h : Effect s i t) : t.wA = s.wA ∧ t.wX = s.wX := by
  obtain ⟨-, -, he, hcfg, -⟩ := h.frame
  exact ⟨State.wA_congr s t hcfg he (h.flags bitM (by decide) (by decide)),
    State.wX_congr s t hcfg he (h.flags bitX (by decide) (by decide))⟩

/-- Writing the same flags again changes nothing. -/
theorem setNZ_setNZ (w : Width) (v : Word) (p : Byte) : setNZ w v (setNZ w v p) = setNZ w v p := by
  refine BitVec.eq_of_getLsbD_eq fun j _ => ?_
  simp only [setNZ_getLsbD]
  split_ifs <;> rfl

/-- TAX then TXA: the low byte comes back at every width, the high byte unless it went through an 8-bit index. -/
theorem exec_tax_then_txa (s : State) :
    ∃ t u, exec .tax s = .next t ∧ exec .txa t = .next u ∧ u.a = s.a ∧ (¬ (s.wA = .w16 ∧ s.wX = .w8) → u.b = s.b) := by
  have htax : exec .tax s = .next (((s.putX s.wX s.c).putNZ s.wX s.c).advance 1) := rfl
  obtain ⟨hwA, -⟩ := (effect_of_exec htax).widths
  refine ⟨_, _, htax, rfl, ?_, fun hwidths => ?_⟩
  · simp [loByte_trunc, State.c]
  · rw [hwA, State.advance_b, State.putNZ_b]
    cases hA : s.wA with
    | w8 => rfl
    | w16 =>
      have hX : s.wX = .w16 := by
        cases hX : s.wX with
        | w8 => exact absurd ⟨hA, hX⟩ hwidths
        | w16 => rfl
      rw [hX, State.putA_b_w16]
      exact hiByte_word s.b s.a

/-- Settles O45: XBA undoes itself on `A` and `B`; TYX after TXY writes back what is there, and the same flags. -/
theorem transferRoundTrips : Obligations.TransferRoundTrips := by
  refine ⟨fun s hv => ?_, exec_tax_then_txa, fun s hv => ?_⟩
  · have hav : Instr.xba.avail.allows s.cfg.variant = true := hv ▸ rfl
    exact ⟨_, _, (exec_next_iff _ s _).2 ⟨hav, rfl⟩, (exec_next_iff _ _ _).2 ⟨hav, rfl⟩, rfl, rfl⟩
  · have hav : Avail.only65816.allows s.cfg.variant = true := hv ▸ rfl
    have htxy := (exec_next_iff .txy s _).2 ⟨hav, rfl⟩
    obtain ⟨-, hwX⟩ := (effect_of_exec htxy).widths
    refine ⟨_, _, htxy, (exec_next_iff .tyx _ _).2 ⟨hav, rfl⟩, rfl, rfl, ?_⟩
    rw [State.advance_p, State.putNZ_p, hwX]
    exact setNZ_setNZ s.wX s.x s.p

end Sys2Proof.Machine
end

section
/-!
Memory over more than one instruction: the canonical form is unique (log 2), a store is seen by the load and by the
fetch after it (R82, R85). O11 to O13.
-/

namespace Sys2Proof.Machine

/-! ### The canonical form is unique -/

theorem Memory.wf_cons_iff (a : Nat) (v : Byte) (m : Memory) :
    Memory.wf ((a, v) :: m) ↔ (∀ c ∈ m, a < c.1) ∧ v ≠ Memory.unlisted ∧ m.wf := by
  simp only [Memory.wf, List.pairwise_cons, List.forall_mem_cons]
  tauto

theorem Memory.read_eq_unlisted {m : Memory} {a : Nat} (h : ∀ c ∈ m, a < c.1) : m.read a = Memory.unlisted := by
  induction m with
  | nil => rfl
  | cons c m ih =>
    obtain ⟨b, v⟩ := c
    have hb : a < b := h (b, v) List.mem_cons_self
    rw [Memory.read, if_neg hb.ne']
    exact ih fun c hc => h c (List.mem_cons_of_mem _ hc)

/-- A memory that reads as unlisted below `b` lists nothing below `b`: its head is no lower than `b`. -/
theorem Memory.le_head_of_read {m n : Memory} {a b : Nat} {v w : Byte} (hm : Memory.wf ((a, v) :: m))
    (hn : Memory.wf ((b, w) :: n)) (h : ∀ x, Memory.read ((a, v) :: m) x = Memory.read ((b, w) :: n) x) : b ≤ a := by
  by_contra hlt
  obtain ⟨-, hv, -⟩ := (Memory.wf_cons_iff _ _ _).1 hm
  obtain ⟨hbn, -, -⟩ := (Memory.wf_cons_iff _ _ _).1 hn
  have hab : a < b := Nat.lt_of_not_le hlt
  have hread : Memory.read ((b, w) :: n) a = Memory.unlisted := by
    refine Memory.read_eq_unlisted (List.forall_mem_cons.2 ⟨hab, fun c hc => hab.trans (hbn c hc)⟩)
  rw [← h a, Memory.read, if_pos rfl] at hread
  exact hv hread

/-- Settles O13, by induction on both lists: their first cells have the same address and value, and their tails read
alike, at the first cell's address too, where both read as unlisted. -/
theorem equalMemories : Obligations.EqualMemories := by
  intro m
  induction m with
  | nil =>
    intro n _ hn h
    cases n with
    | nil => rfl
    | cons c n =>
      obtain ⟨b, w⟩ := c
      obtain ⟨-, hw, -⟩ := (Memory.wf_cons_iff _ _ _).1 hn
      exact absurd (by simpa [Memory.read] using (h b).symm) hw
  | cons c m ih =>
    obtain ⟨a, v⟩ := c
    intro n hm hn h
    cases n with
    | nil =>
      obtain ⟨-, hv, -⟩ := (Memory.wf_cons_iff _ _ _).1 hm
      exact absurd (by simpa [Memory.read] using h a) hv
    | cons c n =>
      obtain ⟨b, w⟩ := c
      obtain rfl : a = b :=
        Nat.le_antisymm (Memory.le_head_of_read hn hm fun x => (h x).symm) (Memory.le_head_of_read hm hn h)
      obtain ⟨ham, -, hmwf⟩ := (Memory.wf_cons_iff _ _ _).1 hm
      obtain ⟨han, -, hnwf⟩ := (Memory.wf_cons_iff _ _ _).1 hn
      have hvw : v = w := by simpa [Memory.read] using h a
      have htail : m = n := ih n hmwf hnwf fun x => by
        by_cases hx : a = x
        · subst hx
          rw [Memory.read_eq_unlisted ham, Memory.read_eq_unlisted han]
        · simpa [Memory.read, hx] using h x
      rw [hvw, htail]

/-! ### A store and what follows it -/

theorem State.readable_of_writable {s : State} {a : Addr} (h : s.writable a = true) : s.readable a = true := by
  unfold State.writable at h
  unfold State.readable
  cases hk : s.kindAt a <;> simp [hk] at h ⊢

/-- `STA addr` as `Stores` says of it. -/
theorem stores_staAbs (addr : Word) :
    Stores (.staAbs addr) 3 State.wA (fun s => s.c.toNat) fun s => .ok (eaAbs addr s) :=
  stores_of_body (fun _ => rfl) <| bytesApart_linear fun s => s.a24 s.dbrReg addr

/-- The datum stored is the one that memory then holds. -/
theorem datumNat_of_storedAt {w : Width} {v : Nat} {m : EA} {s t : State} (h : StoredAt w v m s t) :
    datumNat t w m = v % 2 ^ bits w := by
  obtain ⟨hlo, hhi, -⟩ := h
  cases w with
  | w8 => exact hlo
  | w16 =>
    rw [datumNat, hlo, hhi rfl, bits]
    omega

/-- An accumulator that takes back the low bits of `C` over an unchanged `B` is as before. -/
theorem accumulator_of_accHolds_c {w : Width} {s t u : State} (h : AccHolds w (s.c.toNat % 2 ^ bits w) t u)
    (hb : t.b = s.b) : u.a = s.a ∧ u.b = s.b := by
  have ha := s.a.isLt
  have hblt := s.b.isLt
  have hc := s.c_toNat
  cases w with
  | w8 =>
    obtain ⟨hlo, hkeep⟩ := h
    refine ⟨BitVec.eq_of_toNat_eq ?_, hkeep.trans hb⟩
    rw [hlo, hc, bits]
    omega
  | w16 =>
    obtain ⟨hlo, hhi⟩ := h
    constructor <;> apply BitVec.eq_of_toNat_eq
    · rw [hlo, hc, bits]
      omega
    · rw [hhi, hc, bits]
      omega

/-- Settles O12: the load reads the datum that the store left, at the same address and width. -/
theorem storeThenLoad : Obligations.StoreThenLoad := by
  intro s addr hwrite
  obtain ⟨t, ht, hstored, -, hframe⟩ := stores_staAbs addr s _ rfl rfl hwrite
  obtain ⟨hwA, -⟩ := (effect_of_exec ht).widths
  have hea : eaAbs addr t = eaAbs addr s := by rw [hframe]; rfl
  have hp : t.p = s.p := by rw [hframe]
  have hb : t.b = s.b := by rw [hframe]
  have hread : CanRead t t.wA (eaAbs addr t) := fun a ha => by
    rw [hwA, hea] at ha
    rw [hframe]
    exact State.readable_of_writable (hwrite a ha)
  obtain ⟨u, hu, hacc, hflags, -, hmem, -⟩ := loadsA_of_body (i := .ldaAbs addr) (len := 3)
    (mode := fun s => .ok (eaAbs addr s)) (fun _ => rfl) t _ rfl rfl hread
  rw [hwA, hea, datumNat_of_storedAt hstored] at hacc hflags
  obtain ⟨hua, hub⟩ := accumulator_of_accHolds_c hacc hb
  refine ⟨t, u, ht, hu, hua, hub, ?_, ?_⟩
  · rw [← trunc_toNat, flagsFollow_trunc_iff] at hflags
    simpa only [FlagsFollow, hp] using hflags
  · simpa only [StoredAt, hmem _] using hstored

/-- An encoding of one byte has no immediate operand. -/
theorem immediate_none_of_encode_singleton {c : Ctx} {i : Instr} {b : Byte} (h : encode c i = [b]) :
    i.immediate? c = none := by
  have himm {op : Byte} {w : Width} {k : Word} : op :: constBytes w k ≠ [b] := by
    cases w <;> simp [constBytes, wordBytes]
  cases i with
  | ldaImm | ldxImm | ldyImm => exact absurd h himm
  | _ => rfl

/-- Settles O11: the fetch after the store is at the address stored to, and reads `A` there. -/
theorem storeSeenByFetch : Obligations.StoreSeenByFetch := by
  intro s addr hint hw8 haddr hwrite
  have hea : (eaAbs addr s).ea = s.fetchAddr 3 := haddr
  have hcan : CanWrite s s.wA (eaAbs addr s) := by
    rw [hw8, canWrite_w8_iff, hea]
    exact hwrite
  obtain ⟨t, ht, ⟨hbyte, -⟩, -, -⟩ := stores_staAbs addr s _ rfl rfl hcan
  have heffect := effect_of_exec ht
  obtain ⟨-, hpbr, -, hcfg, hpc⟩ := heffect.frame
  have hfetch : t.fetchAddr 0 = s.fetchAddr 3 := by
    rw [State.fetchAddr, State.codeAddr_congr hcfg hpbr, hpc]
    simp [State.fetchAddr, State.codeAddr, State.len, encode, wordBytes]
  have hA : t.byteAt (t.fetchAddr 0) = s.a := by
    have ha := s.a.isLt
    have hc := s.c_toNat
    rw [hfetch, ← hea]
    refine BitVec.eq_of_toNat_eq (hbyte.trans ?_)
    show s.c.toNat % 256 = s.a.toNat
    omega
  have hint' : t.NoAsyncEvents := by rwa [State.NoAsyncEvents, hcfg]
  have hread : t.readable (t.fetchAddr 0) = true := by
    rw [State.readable_congr (congrArg Config.memMap hcfg), hfetch]
    exact State.readable_of_writable hwrite
  refine ⟨t, ht, hA, fun r hr => ?_, fun i henc hav => ?_⟩
  · refine step_of_fetch_error t _ (fetchInstr_of_lookup_error hint' hread ?_)
    rwa [hA, hcfg]
  · rw [← heffect.ctx] at henc
    refine stepRunsDecoded t i hint' (Instr.wf_of_immediate_none (immediate_none_of_encode_singleton henc) ?_) ?_ ?_
    · rwa [heffect.ctx]
    · rw [henc, State.codeAt_cons_iff]
      exact ⟨hA, rfl⟩
    · rw [henc]
      intro k hk
      obtain rfl : k = 0 := Nat.lt_one_iff.1 hk
      exact hread

end Sys2Proof.Machine
end

section
/-!
What the 8-bit processors do not see (R30, R338): every mode and every body answers alike on two of their states that
differ in an absent register or in the variant. O53 and O54 are two uses of one theorem about such a change of state.
-/

namespace Sys2Proof.Machine

/-! ### Modes -/

/-- Two states of 8-bit processors that agree on all an addressing mode looks at. -/
structure AlikeForModes (s t : State) : Prop where
  left8 : s.is65816 = false
  right8 : t.is65816 = false
  x : t.x = s.x
  y : t.y = s.y
  mem : t.mem = s.mem
  memMap : t.cfg.memMap = s.cfg.memMap
  ldxIndex : t.cfg.ldxIndex = s.cfg.ldxIndex

namespace AlikeForModes

variable {s t : State}

theorem a24 (h : AlikeForModes s t) (b : Byte) (o : Word) : t.a24 b o = s.a24 b o := by
  simp [State.a24, h.left8, h.right8]

theorem lin (h : AlikeForModes s t) (a : Addr) (k : Word) : t.lin a k = s.lin a k := by
  simp [State.lin, h.left8, h.right8]

theorem dbrReg (h : AlikeForModes s t) : t.dbrReg = s.dbrReg := by
  simp [State.dbrReg, h.left8, h.right8]

theorem dpa (h : AlikeForModes s t) (off : Word) : t.dpa off = s.dpa off := by
  simp [State.dpa, State.dReg, State.eFlag, h.a24, h.left8, h.right8]

theorem readByte (h : AlikeForModes s t) (a : Addr) : readByte t a = readByte s a := by
  simp [Machine.readByte, State.readable_congr h.memMap, State.byteAt, h.mem]

theorem readDatum (h : AlikeForModes s t) (w : Width) (m : EA) : readDatum t w m = readDatum s w m := by
  cases w <;> simp [Machine.readDatum, h.readByte]

theorem linear (h : AlikeForModes s t) (a : Addr) : linear t a = linear s a := by
  simp [Machine.linear, h.lin]

theorem ptr16 (h : AlikeForModes s t) (a0 a1 : Addr) : ptr16 t a0 a1 = ptr16 s a0 a1 := by
  simp [Machine.ptr16, h.readByte]

/-- No corner is refused on an 8-bit processor (R151). -/
theorem guard16 (h : AlikeForModes s t) (off : Word) (k : Except Refusal EA) : guard16 t off k = guard16 s off k := by
  simp [Machine.guard16, State.cornersRefused, h.left8, h.right8]

theorem eaAbs (h : AlikeForModes s t) (addr : Word) : eaAbs addr t = eaAbs addr s := by
  simp [Machine.eaAbs, h.linear, h.a24, h.dbrReg]

theorem eaAbsX (h : AlikeForModes s t) (addr : Word) : eaAbsX addr t = eaAbsX addr s := by
  simp [Machine.eaAbsX, eaAbsIdx, h.linear, h.lin, h.a24, h.dbrReg, h.x]

theorem eaAbsY (h : AlikeForModes s t) (addr : Word) : eaAbsY addr t = eaAbsY addr s := by
  simp [Machine.eaAbsY, eaAbsIdx, h.linear, h.lin, h.a24, h.dbrReg, h.y]

theorem eaDp (h : AlikeForModes s t) (dp : Byte) : eaDp dp t = eaDp dp s := by
  simp [Machine.eaDp, eaDpOff, h.dpa]

theorem eaDpX (h : AlikeForModes s t) (dp : Byte) : eaDpX dp t = eaDpX dp s := by
  simp [Machine.eaDpX, eaDpOff, h.dpa, h.x]

theorem eaDpY (h : AlikeForModes s t) (dp : Byte) : eaDpY dp t = eaDpY dp s := by
  simp [Machine.eaDpY, eaDpOff, h.dpa, h.y]

theorem eaPtr (h : AlikeForModes s t) (off : Word) : eaPtr off t = eaPtr off s := by
  simp [Machine.eaPtr, h.guard16, h.ptr16, h.dpa, h.linear, h.a24, h.dbrReg]

theorem eaDpInd (h : AlikeForModes s t) (dp : Byte) : eaDpInd dp t = eaDpInd dp s := h.eaPtr (offset dp)

theorem eaDpXInd (h : AlikeForModes s t) (dp : Byte) : eaDpXInd dp t = eaDpXInd dp s := by
  simp [Machine.eaDpXInd, h.eaPtr, h.x]

theorem eaDpIndY (h : AlikeForModes s t) (dp : Byte) : eaDpIndY dp t = eaDpIndY dp s := by
  simp [Machine.eaDpIndY, h.guard16, h.ptr16, h.dpa, h.linear, h.lin, h.a24, h.dbrReg, h.y]

theorem eaLdxAbs (h : AlikeForModes s t) (addr : Word) : eaLdxAbs addr t = eaLdxAbs addr s := by
  simp [Machine.eaLdxAbs, h.ldxIndex, h.eaAbsX, h.eaAbsY]

theorem eaLdxDp (h : AlikeForModes s t) (dp : Byte) : eaLdxDp dp t = eaLdxDp dp s := by
  simp [Machine.eaLdxDp, h.ldxIndex, h.eaDpX, h.eaDpY]

end AlikeForModes

/-! ### Values of which only the low byte counts -/

theorem State.putX_w8_congr (s : State) {v v' : Word} (h : loByte v' = loByte v) : s.putX .w8 v' = s.putX .w8 v := by
  simp only [State.putX, trunc, h]

theorem State.putY_w8_congr (s : State) {v v' : Word} (h : loByte v' = loByte v) : s.putY .w8 v' = s.putY .w8 v := by
  simp only [State.putY, trunc, h]

theorem State.putNZ_w8_congr (s : State) {v v' : Word} (h : loByte v' = loByte v) : s.putNZ .w8 v' = s.putNZ .w8 v := by
  have hmsb (v : Word) : v.getLsbD 7 = (loByte v).getLsbD 7 := by simp [loByte]
  simp only [State.putNZ, setNZ, msbAt, zeroAt, hmsb v, hmsb v', h]

/-! ### Changes that an 8-bit processor does not see -/

/-- `f` leaves an 8-bit processor's state that of an 8-bit processor, keeps what such a processor has and the parameters
it reads, and can be done before or after any write of its registers or memory. -/
structure Unseen (f : State → State) : Prop where
  is65816 : ∀ s : State, s.is65816 = false → (f s).is65816 = false
  memMap : ∀ s, (f s).cfg.memMap = s.cfg.memMap
  ldxIndex : ∀ s, (f s).cfg.ldxIndex = s.cfg.ldxIndex
  emuStackPage : ∀ s, (f s).cfg.emuStackPage = s.cfg.emuStackPage
  a : ∀ s, (f s).a = s.a
  x : ∀ s, (f s).x = s.x
  y : ∀ s, (f s).y = s.y
  s : ∀ s, (f s).s = s.s
  p : ∀ s, (f s).p = s.p
  pc : ∀ s, (f s).pc = s.pc
  mem : ∀ s, (f s).mem = s.mem
  setA : ∀ s v, f { s with a := v } = { f s with a := v }
  setX : ∀ s v, f { s with x := v } = { f s with x := v }
  setY : ∀ s v, f { s with y := v } = { f s with y := v }
  setS : ∀ s v, f { s with s := v } = { f s with s := v }
  setP : ∀ s v, f { s with p := v } = { f s with p := v }
  setPc : ∀ s v, f { s with pc := v } = { f s with pc := v }
  setMem : ∀ s v, f { s with mem := v } = { f s with mem := v }

namespace Unseen

variable {f : State → State} {s : State}

theorem alike (hf : Unseen f) (h : s.is65816 = false) : AlikeForModes s (f s) :=
  ⟨h, hf.is65816 s h, hf.x s, hf.y s, hf.mem s, hf.memMap s, hf.ldxIndex s⟩

theorem advance (hf : Unseen f) (s : State) (n : Nat) : (f s).advance n = f (s.advance n) := by
  rw [State.advance, hf.pc]
  exact (hf.setPc s _).symm

theorem putNZ (hf : Unseen f) (s : State) (w : Width) (v : Word) : (f s).putNZ w v = f (s.putNZ w v) := by
  rw [State.putNZ, hf.p]
  exact (hf.setP s _).symm

theorem putA (hf : Unseen f) (s : State) (v : Word) : (f s).putA .w8 v = f (s.putA .w8 v) :=
  (hf.setA s (loByte v)).symm

theorem putX (hf : Unseen f) (s : State) (w : Width) (v : Word) : (f s).putX w v = f (s.putX w v) :=
  (hf.setX s (trunc w v)).symm

theorem putY (hf : Unseen f) (s : State) (w : Width) (v : Word) : (f s).putY w v = f (s.putY w v) :=
  (hf.setY s (trunc w v)).symm

theorem loadA (hf : Unseen f) (h : s.is65816 = false) (len : Nat) (mode : Except Refusal EA) :
    loadA len mode (f s) = (loadA len mode s).map f := by
  rw [Machine.loadA, Machine.loadA, s.wA_8bit h, (f s).wA_8bit (hf.is65816 s h)]
  cases mode with
  | error r => rfl
  | ok m =>
    rw [bind_ok, bind_ok, (hf.alike h).readDatum]
    cases readDatum s .w8 m with
    | error r => rfl
    | ok v => simp [Except.map, hf.putA, hf.putNZ, hf.advance]

theorem loadX (hf : Unseen f) (h : s.is65816 = false) (len : Nat) (mode : Except Refusal EA) :
    loadX len mode (f s) = (loadX len mode s).map f := by
  rw [Machine.loadX, Machine.loadX, s.wI_8bit h, (f s).wI_8bit (hf.is65816 s h)]
  cases mode with
  | error r => rfl
  | ok m =>
    rw [bind_ok, bind_ok, (hf.alike h).readDatum]
    cases readDatum s .w8 m with
    | error r => rfl
    | ok v => simp [Except.map, hf.putX, hf.putNZ, hf.advance]

theorem loadY (hf : Unseen f) (h : s.is65816 = false) (len : Nat) (mode : Except Refusal EA) :
    loadY len mode (f s) = (loadY len mode s).map f := by
  rw [Machine.loadY, Machine.loadY, s.wI_8bit h, (f s).wI_8bit (hf.is65816 s h)]
  cases mode with
  | error r => rfl
  | ok m =>
    rw [bind_ok, bind_ok, (hf.alike h).readDatum]
    cases readDatum s .w8 m with
    | error r => rfl
    | ok v => simp [Except.map, hf.putY, hf.putNZ, hf.advance]

/-- A store of values with the same low byte, which is all an 8-bit processor stores. -/
theorem store (hf : Unseen f) (len : Nat) {v v' : Word} (hv : loByte v' = loByte v) (mode : Except Refusal EA) :
    store len .w8 v' mode (f s) = (store len .w8 v mode s).map f := by
  cases mode with
  | error r => rfl
  | ok m =>
    simp only [Machine.store, bind_ok, writeDatum, writeByte, State.writable_congr (hf.memMap s), hv, hf.mem,
      ← hf.setMem]
    split
    · simp [Except.map, hf.advance]
    · rfl

/-- The accumulator pair as an 8-bit processor sees it: its low byte. -/
theorem loByte_c (hf : Unseen f) (s : State) : loByte (f s).c = loByte s.c := by
  rw [State.c, State.c, loByte_word, loByte_word, hf.a]

theorem txsValue (hf : Unseen f) (h : s.is65816 = false) : txsValue (f s) = txsValue s := by
  simp [Machine.txsValue, State.eFlag, h, hf.is65816 s h, hf.emuStackPage, hf.x]

/-- On an 8-bit processor every instruction that such a processor has does the same after the change of state as
before it. -/
theorem body (hf : Unseen f) (h : s.is65816 = false) {i : Instr} (hi : i.avail ≠ .only65816) :
    body i (f s) = (body i s).map f := by
  have ha := hf.alike h
  have hc := hf.loByte_c s
  have hwA := s.wA_8bit h
  have hwI := s.wI_8bit h
  have hwX := s.wX_8bit h
  have hwA' := (f s).wA_8bit (hf.is65816 s h)
  have hwI' := (f s).wI_8bit (hf.is65816 s h)
  have hwX' := (f s).wX_8bit (hf.is65816 s h)
  cases i with
  | ldaLong | ldaDpIndLong | ldaLongX | ldaDpIndLongY | ldaSr | ldaSrIndY | staLong | staDpIndLong | staLongX
  | staDpIndLongY | staSr | staSrIndY | tcd | tcs | tdc | tsc | txy | tyx | xba => exact absurd rfl hi
  | ldaImm => simp only [Machine.body, loadImmA, hwA, hwA', hf.putA, hf.putNZ, hf.advance, Except.map]
  | ldxImm => simp only [Machine.body, loadImmX, hwI, hwI', hf.putX, hf.putNZ, hf.advance, Except.map]
  | ldyImm => simp only [Machine.body, loadImmY, hwI, hwI', hf.putY, hf.putNZ, hf.advance, Except.map]
  | ldaAbs | ldaDp | ldaDpInd | ldaAbsX | ldaAbsY | ldaDpX | ldaDpXInd | ldaDpIndY =>
    simp only [Machine.body, hf.loadA h, ha.eaAbs, ha.eaDp, ha.eaDpInd, ha.eaAbsX, ha.eaAbsY, ha.eaDpX, ha.eaDpXInd,
      ha.eaDpIndY]
  | ldxAbs | ldxDp | ldxAbsY | ldxDpY =>
    simp only [Machine.body, hf.loadX h, ha.eaAbs, ha.eaDp, ha.eaLdxAbs, ha.eaLdxDp]
  | ldyAbs | ldyDp | ldyAbsX | ldyDpX => simp only [Machine.body, hf.loadY h, ha.eaAbs, ha.eaDp, ha.eaAbsX, ha.eaDpX]
  | staAbs | staDp | staDpInd | staAbsX | staAbsY | staDpX | staDpXInd | staDpIndY =>
    simp only [Machine.body, hwA, hwA', hf.store _ hc, ha.eaAbs, ha.eaDp, ha.eaDpInd, ha.eaAbsX, ha.eaAbsY, ha.eaDpX,
      ha.eaDpXInd, ha.eaDpIndY]
  | stxAbs | stxDp | stxDpY =>
    simp only [Machine.body, hwI, hwI', hf.x, hf.store _ (rfl : loByte s.x = _), ha.eaAbs, ha.eaDp, ha.eaDpY]
  | styAbs | styDp | styDpX =>
    simp only [Machine.body, hwI, hwI', hf.y, hf.store _ (rfl : loByte s.y = _), ha.eaAbs, ha.eaDp, ha.eaDpX]
  | stzAbs | stzDp | stzAbsX | stzDpX =>
    simp only [Machine.body, hwA, hwA', hf.store _ (rfl : loByte 0 = _), ha.eaAbs, ha.eaDp, ha.eaAbsX, ha.eaDpX]
  | tax =>
    simp only [Machine.body, hwX, hwX', State.putX_w8_congr _ hc, State.putNZ_w8_congr _ hc, hf.putX, hf.putNZ,
      hf.advance, Except.map]
  | tay =>
    simp only [Machine.body, hwX, hwX', State.putY_w8_congr _ hc, State.putNZ_w8_congr _ hc, hf.putY, hf.putNZ,
      hf.advance, Except.map]
  | tsx => simp only [Machine.body, hwX, hwX', hf.s, hf.putX, hf.putNZ, hf.advance, Except.map]
  | txa => simp only [Machine.body, hwA, hwA', hf.x, hf.putA, hf.putNZ, hf.advance, Except.map]
  | tya => simp only [Machine.body, hwA, hwA', hf.y, hf.putA, hf.putNZ, hf.advance, Except.map]
  | txs => simp only [Machine.body, hf.txsValue h, ← hf.setS, hf.advance, Except.map]

/-- The outcome of an instruction after a change of state that keeps its availability. -/
theorem exec (hf : Unseen f) (h : s.is65816 = false) {i : Instr}
    (hav : i.avail.allows (f s).cfg.variant = i.avail.allows s.cfg.variant)
    (hrefused : i.avail.allows s.cfg.variant = false → (f s).cfg.variant = s.cfg.variant) :
    exec i (f s) = mapNext f (exec i s) := by
  rw [exec_eq, exec_eq, requireOn, requireOn, hav]
  split
  case isTrue hallows =>
    have hi : i.avail ≠ .only65816 := by
      intro hi
      rw [hi] at hallows
      simp [State.is65816, variant_of_only65816 hallows] at h
    rw [hf.body h hi]
    cases Machine.body i s <;> rfl
  case isFalse hallows =>
    rw [hrefused (by simpa using hallows)]
    rfl

end Unseen

/-! ### The statements -/

/-- Settles O53: the five fields are among what an 8-bit processor does not see. -/
theorem absentRegistersUnseen : Obligations.AbsentRegistersUnseen := by
  intro i s b d dbr pbr e hv
  have hf : Unseen fun t => { t with b := b, d := d, dbr := dbr, pbr := pbr, e := e } := by
    constructor
    case is65816 => exact fun _ h => h
    all_goals intros; rfl
  exact hf.exec (s.is65816_eq_false_iff.2 hv) rfl fun _ => rfl

/-- Settles O54: neither is the variant, beyond being no 65816, and an instruction of all three is available on both. -/
theorem sameOnEightBitProcessors : Obligations.SameOnEightBitProcessors := by
  intro i s hi hv
  have hf : Unseen fun t => { t with cfg := { t.cfg with variant := .m65C02 } } := by
    constructor <;> intros <;> rfl
  refine hf.exec (s.is65816_eq_false_iff.2 (by simp [hv])) ?_ fun hnot => ?_
  · rw [hi]
    rfl
  · rw [hi] at hnot
    cases hnot

end Sys2Proof.Machine
end

section
/-!
The cycle counts beside the machine (R341) with each note written out, and the values after reset (R49). O55 and O56.
-/

namespace Sys2Proof.Machine

/-! ### The notes of a row -/

/-- The datum width that the width note of an instruction reads, if its row has that note. -/
def notedWidth (s : State) (i : Instr) : Option Width :=
  if notesHasW (notesOf i) then some (datumWidth s i) else none

/-- The base and the index whose sum the page-crossing note looks at (R139, R141, R145), zero where there is none. -/
def crossPair (s : State) : Instr → Nat × Nat
  | .ldaAbsX addr | .ldyAbsX addr => (addr.toNat, s.x.toNat)
  | .ldaAbsY addr => (addr.toNat, s.y.toNat)
  | .ldaDpIndY dp =>
    ((s.byteAt (s.dpa (offset dp))).toNat + 256 * (s.byteAt (s.dpa (offset dp + 1))).toNat, s.y.toNat)
  | .ldxAbsY addr => (addr.toNat, if s.cfg.ldxIndex = .y then s.y.toNat else s.x.toNat)
  | _ => (0, 0)

theorem notedWidth_eq_w16_iff (s : State) (i : Instr) :
    (notesHasW (notesOf i) && s.is65816 && datumWidth s i == .w16) = true ↔
      s.cfg.variant = .m65816 ∧ notedWidth s i = some .w16 := by
  rw [notedWidth, Bool.and_eq_true, Bool.and_eq_true, s.is65816_iff, beq_iff_eq]
  cases notesHasW (notesOf i) <;> simp

theorem ldxIndexReg_toNat (s : State) :
    s.ldxIndexReg.toNat = if s.cfg.ldxIndex = .y then s.y.toNat else s.x.toNat := by
  unfold State.ldxIndexReg
  cases s.cfg.ldxIndex <;> rfl

/-- The page-crossing note adds a cycle exactly where the sum leaves the base's page; no other row can cross. -/
theorem crossNote_iff (s : State) (i : Instr) :
    (notesHasP (notesOf i) && crossOf s i) = true ↔
      ((crossPair s i).1 + (crossPair s i).2) / 256 ≠ (crossPair s i).1 / 256 := by
  have hP (h : notesHasP (notesOf i) = true) : (notesHasP (notesOf i) && crossOf s i) = crossOf s i := by
    rw [h, Bool.true_and]
  cases i with
  | ldaAbsX | ldyAbsX | ldaAbsY => exact hP rfl ▸ crossPage_iff _ _
  | ldxAbsY addr =>
    rw [hP rfl, crossPair, ← ldxIndexReg_toNat]
    exact crossPage_iff addr s.ldxIndexReg
  | ldaDpIndY dp =>
    rw [hP rfl, crossPair, ← State.ptr16At_toNat]
    exact crossPage_iff _ s.y
  | _ => simp [crossOf, crossPair]

/-- The cycle count with every note written out. -/
theorem cycles_eq (i : Instr) (s : State) :
    cycles i s = baseCycles i
      + (if s.cfg.variant = .m65816 ∧ notedWidth s i = some .w16 then 1 else 0)
      + (if notesHasD (notesOf i) = true ∧ s.cfg.variant = .m65816 ∧ s.d.toNat % 256 ≠ 0 then 1 else 0)
      + (if ((crossPair s i).1 + (crossPair s i).2) / 256 ≠ (crossPair s i).1 / 256 then 1 else 0) := by
  simp only [cycles, notedWidth_eq_w16_iff, crossNote_iff]
  simp only [Bool.and_eq_true, s.dlPenalty_iff]

/-! ### The statements -/

/-- Settles O55: the numbers and notes listed are those of each instruction's row. -/
theorem cycleCounts : Obligations.CycleCounts := by
  rintro s k addr long o p ix rfl rfl
  intro q hq
  have hrow : q.2 = (baseCycles q.1, notedWidth s q.1, notesHasD (notesOf q.1), crossPair s q.1) := by
    revert q
    simp only [List.forall_mem_cons, List.not_mem_nil, false_imp_iff, implies_true, and_true]
    and_intros <;> rfl
  rw [hrow]
  exact cycles_eq q.1 s

/-- Settles O56: the reset state of each variant is a closed term. -/
theorem resetValues : Obligations.ResetValues := by
  intro v
  cases v <;> decide

end Sys2Proof.Machine
end
